-- ==== Sys2Proof/Word.lean ====
section
/-! DEFINITION. The data of the hardware: bytes, 4-byte words, 16-byte blocks and their plainest arithmetic
(00_scope.md rules R9 to R13). Nothing here is a multi-byte integer: every datum is a byte or a sequence of bytes
(20_memory.md rule R55). -/

namespace Sys2Proof

/-- A byte, bits numbered 7 down to 0 (R9). -/
abbrev Byte := BitVec 8

/-- A word: the sequence of four bytes `(a0, a1, a2, a3)` (R11). -/
structure Word where
  a0 : Byte
  a1 : Byte
  a2 : Byte
  a3 : Byte
deriving DecidableEq, Repr

/-- A block: sixteen bytes held as the four columns of the 4x4 byte matrix, so `b[4*c + r]` is byte `r` of
column `c` (R10). -/
structure Block where
  c0 : Word
  c1 : Word
  c2 : Word
  c3 : Word
deriving DecidableEq, Repr

/-- The word of four `0x00` bytes. -/
def Word.zero : Word := ⟨0#8, 0#8, 0#8, 0#8⟩

/-- The block of sixteen `0x00` bytes. -/
def Block.zero : Block := ⟨Word.zero, Word.zero, Word.zero, Word.zero⟩

/-- `XOR` on words, byte by byte (R13). -/
def Word.xor (x y : Word) : Word := ⟨x.a0 ^^^ y.a0, x.a1 ^^^ y.a1, x.a2 ^^^ y.a2, x.a3 ^^^ y.a3⟩

/-- `XOR` on blocks, byte by byte (R13). -/
def Block.xor (x y : Block) : Block := ⟨x.c0.xor y.c0, x.c1.xor y.c1, x.c2.xor y.c2, x.c3.xor y.c3⟩

/-- The bytes of a word in order (R11). -/
def Word.bytes (x : Word) : List Byte := [x.a0, x.a1, x.a2, x.a3]

/-- The bytes `b[0..15]` of a block in order (R10). -/
def Block.bytes (b : Block) : List Byte := b.c0.bytes ++ b.c1.bytes ++ b.c2.bytes ++ b.c3.bytes

end Sys2Proof
end

