-- ==== Sys2Proof/Syntax.lean ====
section
/-! DEFINITION. The command set: one constructor per row of spec/opcode_table.json (30_encoding.md rule R86). The
operands of a command are the fields of its command byte (`ch`, `ks`) and its input payload `inp`, a byte sequence
that arrives with its own length, which the command does not fix (R80, R91). -/

namespace Sys2Proof

/-- The chaining selector `ch` (R83): `0` is ECB and `1` is CBC. -/
inductive Chaining where
  | ecb
  | cbc
deriving DecidableEq, Repr

/-- The 22 commands (R86). -/
inductive Instr where
  | status (inp : List Byte)
  | init (ch : Chaining) (ks : BitVec 2) (inp : List Byte)
  | enc (inp : List Byte)
  | dec (inp : List Byte)
  | zeroize (inp : List Byte)
  | subBytes (inp : List Byte)
  | invSubBytes (inp : List Byte)
  | shiftRows (inp : List Byte)
  | invShiftRows (inp : List Byte)
  | mixColumns (inp : List Byte)
  | invMixColumns (inp : List Byte)
  | addRoundKey (inp : List Byte)
  | transpose (inp : List Byte)
  | keyExpand (ks : BitVec 2) (inp : List Byte)
  | sbox (inp : List Byte)
  | invSbox (inp : List Byte)
  | gfMul2 (inp : List Byte)
  | gfMul3 (inp : List Byte)
  | gfMul9 (inp : List Byte)
  | gfMul11 (inp : List Byte)
  | gfMul13 (inp : List Byte)
  | gfMul14 (inp : List Byte)
deriving DecidableEq, Repr

/-- The input payload of a command (R80). -/
def Instr.payload : Instr → List Byte
  | .status inp => inp
  | .init _ _ inp => inp
  | .enc inp => inp
  | .dec inp => inp
  | .zeroize inp => inp
  | .subBytes inp => inp
  | .invSubBytes inp => inp
  | .shiftRows inp => inp
  | .invShiftRows inp => inp
  | .mixColumns inp => inp
  | .invMixColumns inp => inp
  | .addRoundKey inp => inp
  | .transpose inp => inp
  | .keyExpand _ inp => inp
  | .sbox inp => inp
  | .invSbox inp => inp
  | .gfMul2 inp => inp
  | .gfMul3 inp => inp
  | .gfMul9 inp => inp
  | .gfMul11 inp => inp
  | .gfMul13 inp => inp
  | .gfMul14 inp => inp

/-- The pure commands, the block primitives and the unit lookups (R82, R88). `STATUS`, `INIT`, `ENC`, `DEC` and
`ZEROIZE` are the engine commands. -/
def Instr.isPure : Instr → Bool
  | .status _ | .init _ _ _ | .enc _ | .dec _ | .zeroize _ => false
  | .subBytes _ | .invSubBytes _ | .shiftRows _ | .invShiftRows _ | .mixColumns _ | .invMixColumns _
  | .addRoundKey _ | .transpose _ | .keyExpand _ _ => true
  | .sbox _ | .invSbox _ | .gfMul2 _ | .gfMul3 _ | .gfMul9 _ | .gfMul11 _ | .gfMul13 _ | .gfMul14 _ => true

end Sys2Proof
end

