-- ==== Sys2Proof/WellFormed.lean ====
section
/-! DEFINITION. When a command is well formed: its mode is one of the three key sizes and its payload has the
required length (30_encoding.md rules R83, R86, R91). An ill-formed command still runs: the engine answers it with
an error status (60_exceptions.md rules R272, R273, R275). -/

namespace Sys2Proof

/-- The required input payload length of a command, the `in` column of R86; none for `ks = 11` (R91). -/
def Instr.requiredLength : Instr → Option Nat
  | .status _ => some 0
  | .init _ ks _ => if ks = 3#2 then none else some (16 + 8 * ks.toNat)
  | .enc _ => some 16
  | .dec _ => some 16
  | .zeroize _ => some 0
  | .subBytes _ => some 16
  | .invSubBytes _ => some 16
  | .shiftRows _ => some 16
  | .invShiftRows _ => some 16
  | .mixColumns _ => some 16
  | .invMixColumns _ => some 16
  | .addRoundKey _ => some 32
  | .transpose _ => some 16
  | .keyExpand ks _ => if ks = 3#2 then none else some (16 + 8 * ks.toNat)
  | .sbox _ => some 1
  | .invSbox _ => some 1
  | .gfMul2 _ => some 1
  | .gfMul3 _ => some 1
  | .gfMul9 _ => some 1
  | .gfMul11 _ => some 1
  | .gfMul13 _ => some 1
  | .gfMul14 _ => some 1

/-- A command whose mode is legal and whose payload has the length the command requires (R83, R91). -/
def Instr.wellFormed (i : Instr) : Bool := i.requiredLength == some i.payload.length

end Sys2Proof
end

