-- ==== Sys2Proof/Decode.lean ====
section
/-! DEFINITION. Decoding, total on any bytes, and the encoder, both from 30_encoding.md rules R81 to R90. A command is
one command byte followed by its payload bytes (R80, R100). -/

namespace Sys2Proof

/-- Why bytes are no command. -/
inductive DecodeError where
  /-- The command byte is not in the opcode map (R89). -/
  | illegalCommand (cmd : Byte)
  /-- There is no command byte at all: a command is a command byte and a payload (R80). -/
  | noCommandByte
deriving DecidableEq, Repr

/-- Field `ch` of format FM (R81, R83). -/
def Chaining.ofBit : BitVec 1 → Chaining
  | 0#1 => .ecb
  | 1#1 => .cbc

/-- The encoding of field `ch` (R83). -/
def Chaining.bit : Chaining → BitVec 1
  | .ecb => 0#1
  | .cbc => 1#1

/-- The twenty format F0 commands: command byte and command (R86). -/
def f0Table : List (Byte × (List Byte → Instr)) :=
  [ (0x00#8, .status), (0x20#8, .enc), (0x21#8, .dec), (0x30#8, .zeroize),
    (0x40#8, .subBytes), (0x41#8, .invSubBytes), (0x42#8, .shiftRows), (0x43#8, .invShiftRows),
    (0x44#8, .mixColumns), (0x45#8, .invMixColumns), (0x46#8, .addRoundKey), (0x47#8, .transpose),
    (0x80#8, .sbox), (0x81#8, .invSbox),
    (0x92#8, .gfMul2), (0x93#8, .gfMul3), (0x99#8, .gfMul9), (0x9B#8, .gfMul11), (0x9D#8, .gfMul13),
    (0x9E#8, .gfMul14) ]

/-- Decoding of a command byte with its payload (R90). -/
def decode (cmd : Byte) (inp : List Byte) : Except DecodeError Instr :=
  if cmd.extractLsb' 3 5 = 0b00010#5 then
    .ok (.init (Chaining.ofBit (cmd.extractLsb' 2 1)) (cmd.extractLsb' 0 2) inp)
  else if cmd.extractLsb' 2 6 = 0b010010#6 then
    .ok (.keyExpand (cmd.extractLsb' 0 2) inp)
  else
    match f0Table.find? (fun row => row.1 == cmd) with
    | some row => .ok (row.2 inp)
    | none => .error (.illegalCommand cmd)

/-- Decoding of a command written as its bytes: the command byte, then the payload (R100;
notes/assumptions/18.md). -/
def decodeBytes : List Byte → Except DecodeError Instr
  | [] => .error .noCommandByte
  | cmd :: inp => decode cmd inp

/-- The command byte of a command (R81, R86). -/
def commandByte : Instr → Byte
  | .status _ => 0x00#8
  | .init ch ks _ => 0b00010#5 ++ ch.bit ++ ks
  | .enc _ => 0x20#8
  | .dec _ => 0x21#8
  | .zeroize _ => 0x30#8
  | .subBytes _ => 0x40#8
  | .invSubBytes _ => 0x41#8
  | .shiftRows _ => 0x42#8
  | .invShiftRows _ => 0x43#8
  | .mixColumns _ => 0x44#8
  | .invMixColumns _ => 0x45#8
  | .addRoundKey _ => 0x46#8
  | .transpose _ => 0x47#8
  | .keyExpand ks _ => 0b010010#6 ++ ks
  | .sbox _ => 0x80#8
  | .invSbox _ => 0x81#8
  | .gfMul2 _ => 0x92#8
  | .gfMul3 _ => 0x93#8
  | .gfMul9 _ => 0x99#8
  | .gfMul11 _ => 0x9B#8
  | .gfMul13 _ => 0x9D#8
  | .gfMul14 _ => 0x9E#8

/-- The encoding of a command: the command byte followed by the payload bytes (R100). -/
def encode (i : Instr) : List Byte := commandByte i :: i.payload

/-- The payload length a command byte requires, `0` where there is none (R91). -/
def byteLength (cmd : Byte) : Nat :=
  match decode cmd [] with
  | .ok i => i.requiredLength.getD 0
  | .error _ => 0

/-- The command whose bits are `w` as spec/opcode_table.json numbers them: the command byte is bits 7..0, the payload
bytes count on from there, and every bit above `nbits` is zero up to the payload length the command requires
(notes/assumptions/19.md). -/
def tableWordCommand (nbits w : Nat) : Byte × List Byte :=
  let bits := w % 2 ^ nbits
  let cmd := BitVec.ofNat 8 bits
  let given := (List.range (nbits / 8 - 1)).map fun k => BitVec.ofNat 8 (bits / 256 ^ (k + 1))
  (cmd, given ++ List.replicate (byteLength cmd - given.length) 0#8)

/-- What the decoder reads from the command whose bits are `w`, numbered as spec/opcode_table.json numbers them. -/
def decodeTableWord (nbits w : Nat) : Option Instr :=
  let c := tableWordCommand nbits w
  match decode c.1 c.2 with
  | .ok i => some i
  | .error _ => none

end Sys2Proof
end

