-- ==== Sys2Proof/Machine/Operands.lean ====
section
/-! DEFINITION. Operand forms: the parameters a `ks` field stands for (30_encoding.md rule R83) and the bytes, words
and blocks of a payload (R84). -/

namespace Sys2Proof.Machine

open Sys2Proof

/-- `N`, the key length in words (R83). -/
def keyWordCount (ks : BitVec 2) : Nat := 4 + 2 * ks.toNat

/-- `keySize`, the key length in bytes (R83). -/
def keySize (ks : BitVec 2) : Nat := 4 * keyWordCount ks

/-- `Nr`, the number of rounds (R83). -/
def rounds (ks : BitVec 2) : Nat := keyWordCount ks + 6

/-- The number of schedule words the mode uses, `4*(Nr+1)` (10_state.md rule R21). -/
def scheduleWords (ks : BitVec 2) : Nat := 4 * (rounds ks + 1)

/-- `in[i]` (00_scope.md rule R14). A command reads it only after it has checked the payload's length, so the
default is never read (notes/assumptions/8.md). -/
def payloadByte (inp : List Byte) (i : Nat) : Byte := inp.getD i 0#8

/-- The word of payload bytes `i, i+1, i+2, i+3` in that order (41_key_schedule.md rule R143). -/
def payloadWord (inp : List Byte) (i : Nat) : Word :=
  ⟨payloadByte inp i, payloadByte inp (i + 1), payloadByte inp (i + 2), payloadByte inp (i + 3)⟩

/-- The block of payload bytes `i .. i+15`: payload byte `i` is block byte 0 (R84, 00_scope.md rule R10). -/
def payloadBlock (inp : List Byte) (i : Nat) : Block :=
  ⟨payloadWord inp i, payloadWord inp (i + 4), payloadWord inp (i + 8), payloadWord inp (i + 12)⟩

/-- The byte sequence that a hexadecimal string of `2*n` digits denotes, the string read as the number `v`: the leftmost
two digits are byte 0 (00_scope.md rule R12). -/
def hexBytes (n v : Nat) : List Byte := (List.range n).map fun i => BitVec.ofNat 8 (v / 256 ^ (n - 1 - i))

end Sys2Proof.Machine
end

