-- ==== Sys2Proof/Machine/State.lean ====
section
/-! DEFINITION. The state of one engine instance (10_state.md rule R20) and the transaction interface it is driven
through (30_encoding.md rule R80): the events the host has lined up and the last response. -/

namespace Sys2Proof.Machine

open Sys2Proof

/-- The status of a response (60_exceptions.md rule R271); its byte is `Status.code` in Machine/Flags.lean. -/
inductive Status where
  | ok
  | errBadMode
  | errKeyLength
  | errNotReady
  | errAlreadyConstructed
  | errIllegalCommand
  | errPayloadLength
deriving DecidableEq, Repr

/-- A response: a status and an output payload (R80). -/
structure Response where
  status : Status
  out    : List Byte
deriving DecidableEq, Repr

/-- What reaches the engine from outside: a command (R80), or a reset (70_reset_and_hazards.md rule R300). -/
inductive HostEvent where
  /-- A command byte with its input payload. -/
  | command (cmd : Byte) (inp : List Byte)
  /-- A reset asserted between commands. -/
  | reset
  /-- A reset asserted while this command executes. -/
  | resetDuring (cmd : Byte) (inp : List Byte)
deriving DecidableEq, Repr

/-- The state of one engine instance. The first six fields are the elements of R20; the last two are the model's
record of the transaction interface of R80 (notes/assumptions/1.md). -/
structure State where
  /-- `READY`: an engine is constructed (R22). -/
  ready    : Bool
  /-- `MODE.KS`: 0, 1, 2 for 128, 192, 256 bits; 3 is never stored (R21, R33). -/
  ks       : BitVec 2
  /-- `MODE.CH` (R21, R33). -/
  ch       : Chaining
  /-- `KEY[0..31]` (R23). -/
  key      : Vector Byte 32
  /-- The schedule store `W[0..59]` (R24). -/
  w        : Vector Word 60
  /-- The chaining register `CV[0..15]` (R25). -/
  cv       : Block
  /-- The host's events not yet taken, oldest first (R63). -/
  pending  : List HostEvent
  /-- The response of the last event taken; none after a reset (R80, R300). -/
  response : Option Response
deriving DecidableEq, Repr

/-- Why the model stops. The hardware has no such stop: every error of the spec is a response (R276, R282). -/
inductive Fault where
  /-- Raised by `ENC` and `DEC` when `MODE.KS` is 3, where a round key would lie outside `W`. R54 says that no rule
  indexes outside `W` and R27 that 3 is never stored, so no reachable state raises it. Safe. -/
  | scheduleIndex
  /-- Raised by `Platform.step` when the host names an engine instance the platform does not have (R41 leaves the
  naming of instances to the platform). Safe. -/
  | noSuchEngine
deriving DecidableEq, Repr

/-- Why an instruction has no meaning. -/
inductive Refusal where
  /-- Raised by an arm of `exec` whose instruction has no meaning yet. Safe. No arm raises it. -/
  | notModelled (mnemonic : String)
deriving DecidableEq, Repr

/-- The state after reset (R38, R300): every element zero, `READY = 0`; no event has arrived and no response has
been made (notes/assumptions/5.md). -/
def State.reset : State where
  ready    := false
  ks       := 0#2
  ch       := .ecb
  key      := Vector.replicate 32 0#8
  w        := Vector.replicate 60 Word.zero
  cv       := Block.zero
  pending  := []
  response := none

end Sys2Proof.Machine
end

