-- ==== Sys2Proof/Machine/Ops.lean ====
section
/-! DEFINITION. The named operations every meaning is written with: answering a command, raising an error, and the
writes of the state elements. -/

namespace Sys2Proof.Machine

open Sys2Proof

/-- What a meaning or a step answers. -/
abbrev Result := Host.Outcome State Fault Refusal

/-! ## Writes of state elements -/

/-- The response the engine gives (30_encoding.md rule R80). -/
def State.withResponse (s : State) (r : Option Response) : State := { s with response := r }

/-- `CV <- v` (44_cbc_chaining.md rules R221, R222). -/
def State.withCv (s : State) (v : Block) : State := { s with cv := v }

/-- The host's events still to be taken. -/
def State.withPending (s : State) (es : List HostEvent) : State := { s with pending := es }

/-- The writes of a successful `INIT` (43_block_cipher_engine.md rule R196): mode, key with zeros above, schedule with
zero words above, a zero chaining value, `READY`. `words` is `KeyExpansion(key)`. -/
def State.constructed (s : State) (ch : Chaining) (ks : BitVec 2) (key : List Byte) (words : List Word) : State :=
  { s with
    ready := true
    ks := ks
    ch := ch
    key := Vector.ofFn fun i => key.getD i.val 0#8
    w := Vector.ofFn fun c => words.getD c.val Word.zero
    cv := Block.zero }

/-- The writes of `ZEROIZE` (R199) and of reset (70_reset_and_hazards.md rule R300): every element of R20 to zero. -/
def State.zeroized (s : State) : State :=
  { s with
    ready := false
    ks := 0#2
    ch := .ecb
    key := Vector.replicate 32 0#8
    w := Vector.replicate 60 Word.zero
    cv := Block.zero }

/-! ## Answering -/

/-- `respond(OK, out)` (00_scope.md rule R14). -/
def respond (out : List Byte) (s : State) : Result := .next (s.withResponse (some ⟨.ok, out⟩))

/-- Taking an exception: `raise Err(code)` responds with the status and an empty payload and writes no state element
(60_exceptions.md rules R276, R285). There is no handler and so no return from an exception (R286). -/
def raiseErr (code : Status) (s : State) : Result := .next (s.withResponse (some ⟨code, []⟩))

/-- The payload length check that comes first in a command of fixed length (R272): `k` runs when it passes. -/
def checkLength (n : Nat) (inp : List Byte) (s : State) (k : Result) : Result :=
  if inp.length ≠ n then raiseErr .errPayloadLength s else k

/-- The checks that come first in a command that takes a key: mode, then key length (R273, R275, R280). -/
def checkKey (ks : BitVec 2) (inp : List Byte) (s : State) (k : Result) : Result :=
  if ks = 3#2 then raiseErr .errBadMode s
  else if inp.length ≠ 4 * keyWordCount ks then raiseErr .errKeyLength s
  else k

/-- A pure command of fixed length: it answers a function of the payload (30_encoding.md rule R88). -/
def pureCommand (n : Nat) (f : List Byte → List Byte) (inp : List Byte) (s : State) : Result :=
  checkLength n inp s (respond (f inp) s)

/-- A pure command on one block (42_round_primitives.md). -/
def blockCommand (f : Block → Block) (inp : List Byte) (s : State) : Result :=
  pureCommand 16 (fun p => (f (payloadBlock p 0)).bytes) inp s

/-- A unit lookup on one byte (40_tables_and_gf.md section 5). -/
def unitCommand (f : Byte → Byte) (inp : List Byte) (s : State) : Result :=
  pureCommand 1 (fun p => [f (payloadByte p 0)]) inp s

/-- The checks of a block command on the engine: length, then `READY` (R197, R198, R280), and that the round keys
`0 .. Nr` lie inside `W` (20_memory.md rule R54), which holds in every state with `MODE.KS` below 3. -/
def checkBlock (inp : List Byte) (s : State) (k : Result) : Result :=
  checkLength 16 inp s
    (if s.ready = false then raiseErr .errNotReady s
     else if 60 < scheduleWords s.ks then .fault .scheduleIndex
     else k)

/-! ## The transaction interface -/

/-- The event the engine takes next and the state without it (R63); none when the host has sent nothing. -/
def nextEvent (s : State) : Option (HostEvent × State) :=
  match s.pending with
  | [] => none
  | e :: es => some (e, s.withPending es)

/-- A reset (R300): every element of R20 to its reset value and no response; the host's later events stay
(notes/assumptions/7.md). -/
def takeReset (s : State) : State := s.zeroized.withResponse none

/-- `s` with the command whose bits are `w` (numbered as spec/opcode_table.json numbers them) as its next event. -/
def placeTableWord (s : State) (nbits w : Nat) : State :=
  let c := tableWordCommand nbits w
  s.withPending (.command c.1 c.2 :: s.pending)

end Sys2Proof.Machine
end

