-- ==== Sys2Proof/Machine/RoundPrimitives.lean ====
section
/-! DEFINITION. The round transform primitives and their commands (42_round_primitives.md). A block is its four
columns, so byte `r` of column `c` is the spec's `s[r,c]`. -/

namespace Sys2Proof.Machine

open Sys2Proof

/-! ## SubBytes -/

/-- A table applied to each byte of a word. -/
def mapWord (f : Byte → Byte) (x : Word) : Word := ⟨f x.a0, f x.a1, f x.a2, f x.a3⟩

/-- A table applied to each byte of a block. -/
def mapBytes (f : Byte → Byte) (b : Block) : Block := ⟨mapWord f b.c0, mapWord f b.c1, mapWord f b.c2, mapWord f b.c3⟩

/-- `SubBytes` (R160). -/
def subBytes (b : Block) : Block := mapBytes sbox b

/-- `InvSubBytes` (R162). -/
def invSubBytes (b : Block) : Block := mapBytes invSbox b

/-! ## ShiftRows and Transpose -/

/-- `ShiftRows` (R164): column `c` takes row `r` from column `c + r`. -/
def shiftRows (b : Block) : Block :=
  ⟨⟨b.c0.a0, b.c1.a1, b.c2.a2, b.c3.a3⟩,
   ⟨b.c1.a0, b.c2.a1, b.c3.a2, b.c0.a3⟩,
   ⟨b.c2.a0, b.c3.a1, b.c0.a2, b.c1.a3⟩,
   ⟨b.c3.a0, b.c0.a1, b.c1.a2, b.c2.a3⟩⟩

/-- `InvShiftRows` (R166): column `c` takes row `r` from column `c - r`. -/
def invShiftRows (b : Block) : Block :=
  ⟨⟨b.c0.a0, b.c3.a1, b.c2.a2, b.c1.a3⟩,
   ⟨b.c1.a0, b.c0.a1, b.c3.a2, b.c2.a3⟩,
   ⟨b.c2.a0, b.c1.a1, b.c0.a2, b.c3.a3⟩,
   ⟨b.c3.a0, b.c2.a1, b.c1.a2, b.c0.a3⟩⟩

/-- `Transpose` (R168): rows and columns exchanged. -/
def transpose (b : Block) : Block :=
  ⟨⟨b.c0.a0, b.c1.a0, b.c2.a0, b.c3.a0⟩,
   ⟨b.c0.a1, b.c1.a1, b.c2.a1, b.c3.a1⟩,
   ⟨b.c0.a2, b.c1.a2, b.c2.a2, b.c3.a2⟩,
   ⟨b.c0.a3, b.c1.a3, b.c2.a3, b.c3.a3⟩⟩

/-- A word rotated left by one byte position. -/
def rotWordL (x : Word) : Word := ⟨x.a1, x.a2, x.a3, x.a0⟩

/-- A word rotated right by one byte position. -/
def rotWordR (x : Word) : Word := ⟨x.a3, x.a0, x.a1, x.a2⟩

/-- `RotRowsL` of the equivalent formulation of ShiftRows (R170): word `r` rotated left by `r` byte positions. -/
def rotRowsL (m : Block) : Block :=
  ⟨m.c0, rotWordL m.c1, rotWordL (rotWordL m.c2), rotWordL (rotWordL (rotWordL m.c3))⟩

/-- `RotRowsR` (R170): word `r` rotated right by `r` byte positions. -/
def rotRowsR (m : Block) : Block :=
  ⟨m.c0, rotWordR m.c1, rotWordR (rotWordR m.c2), rotWordR (rotWordR (rotWordR m.c3))⟩

/-! ## MixColumns -/

/-- One column of `MixColumns` (R171). -/
def mixColumn (x : Word) : Word :=
  ⟨mul2 x.a0 ^^^ mul3 x.a1 ^^^ x.a2 ^^^ x.a3,
   x.a0 ^^^ mul2 x.a1 ^^^ mul3 x.a2 ^^^ x.a3,
   x.a0 ^^^ x.a1 ^^^ mul2 x.a2 ^^^ mul3 x.a3,
   mul3 x.a0 ^^^ x.a1 ^^^ x.a2 ^^^ mul2 x.a3⟩

/-- `MixColumns` (R171). -/
def mixColumns (b : Block) : Block := ⟨mixColumn b.c0, mixColumn b.c1, mixColumn b.c2, mixColumn b.c3⟩

/-- One column of `InvMixColumns` (R173). -/
def invMixColumn (x : Word) : Word :=
  ⟨mul14 x.a0 ^^^ mul11 x.a1 ^^^ mul13 x.a2 ^^^ mul9 x.a3,
   mul9 x.a0 ^^^ mul14 x.a1 ^^^ mul11 x.a2 ^^^ mul13 x.a3,
   mul13 x.a0 ^^^ mul9 x.a1 ^^^ mul14 x.a2 ^^^ mul11 x.a3,
   mul11 x.a0 ^^^ mul13 x.a1 ^^^ mul9 x.a2 ^^^ mul14 x.a3⟩

/-- `InvMixColumns` (R173). -/
def invMixColumns (b : Block) : Block :=
  ⟨invMixColumn b.c0, invMixColumn b.c1, invMixColumn b.c2, invMixColumn b.c3⟩

/-! ## AddRoundKey -/

/-- `AddRoundKey` (R175). -/
def addRoundKey (b k : Block) : Block := b.xor k

/-! ## The commands -/

/-- `SUBBYTES` (R161). -/
def execSubBytes (inp : List Byte) (s : State) : Result := blockCommand subBytes inp s

/-- `INVSUBBYTES` (R163). -/
def execInvSubBytes (inp : List Byte) (s : State) : Result := blockCommand invSubBytes inp s

/-- `SHIFTROWS` (R165). -/
def execShiftRows (inp : List Byte) (s : State) : Result := blockCommand shiftRows inp s

/-- `INVSHIFTROWS` (R167). -/
def execInvShiftRows (inp : List Byte) (s : State) : Result := blockCommand invShiftRows inp s

/-- `TRANSPOSE` (R169). -/
def execTranspose (inp : List Byte) (s : State) : Result := blockCommand transpose inp s

/-- `MIXCOLUMNS` (R172). -/
def execMixColumns (inp : List Byte) (s : State) : Result := blockCommand mixColumns inp s

/-- `INVMIXCOLUMNS` (R174). -/
def execInvMixColumns (inp : List Byte) (s : State) : Result := blockCommand invMixColumns inp s

/-- `ADDROUNDKEY` (R176): the block is `in[0..15]` and the round key `in[16..31]`, never the schedule store. -/
def execAddRoundKey (inp : List Byte) (s : State) : Result :=
  pureCommand 32 (fun p => (addRoundKey (payloadBlock p 0) (payloadBlock p 16)).bytes) inp s

end Sys2Proof.Machine
end

