-- ==== Sys2Proof/Machine/KeySchedule.lean ====
section
/-! DEFINITION. The key schedule and `KEYEXPAND` (41_key_schedule.md). -/

namespace Sys2Proof.Machine

open Sys2Proof

/-- `RotWord` (R141). -/
def rotWord (x : Word) : Word := rotWordL x

/-- `SubWord` (R145). -/
def subWord (x : Word) : Word := mapWord sbox x

/-- `RconWord(i)`: the round constant in byte 0 (R142). -/
def rconWord (i : Nat) : Word := ⟨rcon i, 0#8, 0#8, 0#8⟩

/-- The first `n` words, the key itself (R143). -/
def keyWords (n : Nat) (key : List Byte) : List Word := (List.range n).map fun i => payloadWord key (4 * i)

/-- The word `t` that step `c` of the expansion adds, from the previous word (R144). -/
def scheduleTerm (n c : Nat) (prev : Word) : Word :=
  if c % n = 0 then (subWord (rotWord prev)).xor (rconWord (c / n))
  else if n > 6 ∧ c % n = 4 then subWord prev
  else prev

/-- Word `w[c]` from the words `w[0 .. c-1]`, `c` being their number (R144). -/
def nextWord (n : Nat) (w : List Word) : Word :=
  (w.getD (w.length - n) Word.zero).xor (scheduleTerm n w.length (w.getD (w.length - 1) Word.zero))

/-- The loop of R144: as many further words, in ascending order. -/
def expandBy (n : Nat) : Nat → List Word → List Word
  | 0, w => w
  | more + 1, w => expandBy n more (w ++ [nextWord n w])

/-- `KeyExpansion(key)` (R144): `4*(Nr+1)` words, where `N = len(key)/4` and `Nr = N + 6`. -/
def keyExpansion (key : List Byte) : List Word :=
  let n := key.length / 4
  expandBy n (4 * (n + 7) - n) (keyWords n key)

/-- `RoundKey(w, r)`: words `w[4r .. 4r+3]` laid end to end (R146). -/
def roundKey (w : List Word) (r : Nat) : Block :=
  ⟨w.getD (4 * r) Word.zero, w.getD (4 * r + 1) Word.zero, w.getD (4 * r + 2) Word.zero, w.getD (4 * r + 3) Word.zero⟩

/-- `RoundKey(w,0) || .. || RoundKey(w,Nr)` (R148). -/
def roundKeyBytes (w : List Word) (nr : Nat) : List Byte := (List.range (nr + 1)).flatMap fun r => (roundKey w r).bytes

/-- `KEYEXPAND` (R148). -/
def execKeyExpand (ks : BitVec 2) (inp : List Byte) (s : State) : Result :=
  checkKey ks inp s (respond (roundKeyBytes (keyExpansion inp) (rounds ks)) s)

end Sys2Proof.Machine
end

