-- ==== Sys2Proof/Machine/BlockCipher.lean ====
section
/-! DEFINITION. The block functions (43_block_cipher_engine.md rules R190, R191) and the two chaining updates
(44_cbc_chaining.md rules R221, R222). -/

namespace Sys2Proof.Machine

open Sys2Proof

/-- The working block after the full rounds `1 .. n` of `Cipher` (R190). -/
def cipherRounds (w : List Word) : Nat → Block → Block
  | 0, b => b
  | n + 1, b => addRoundKey (mixColumns (shiftRows (subBytes (cipherRounds w n b)))) (roundKey w (n + 1))

/-- `Cipher(b, w, Nr)` (R190). -/
def cipher (b : Block) (w : List Word) (nr : Nat) : Block :=
  addRoundKey (shiftRows (subBytes (cipherRounds w (nr - 1) (addRoundKey b (roundKey w 0))))) (roundKey w nr)

/-- The loop of `InvCipher` for `r = n` down to 1; `r = 0` is not in it (R191, 90_conflicts.md C1). -/
def invCipherRounds (w : List Word) : Nat → Block → Block
  | 0, b => b
  | n + 1, b => invCipherRounds w n (invSubBytes (invShiftRows (invMixColumns (addRoundKey b (roundKey w (n + 1))))))

/-- `InvCipher(b, w, Nr)` (R191). -/
def invCipher (b : Block) (w : List Word) (nr : Nat) : Block :=
  addRoundKey (invCipherRounds w (nr - 1) (invSubBytes (invShiftRows (addRoundKey b (roundKey w nr))))) (roundKey w 0)

/-- `CbcEncUpdate(y, cv)`: the output block and the next chaining value (R221). -/
def cbcEncUpdate (y cv : Block) : Block × Block := (y.xor cv, y.xor cv)

/-- `CbcDecUpdate(c, cv)`: the inverse cipher's input and the next chaining value (R222). -/
def cbcDecUpdate (c cv : Block) : Block × Block := (c.xor cv, c)

end Sys2Proof.Machine
end

