-- ==== Sys2Proof/Machine/Flags.lean ====
section
/-! DEFINITION. The engine has no arithmetic flags (10_state.md rule R32). What it reports are the status byte of a
response (60_exceptions.md rule R271) and the status register (10_state.md rule R33). -/

namespace Sys2Proof.Machine

open Sys2Proof

/-- The status byte (R271). -/
def Status.code : Status → Byte
  | .ok => 0x00#8
  | .errBadMode => 0x01#8
  | .errKeyLength => 0x02#8
  | .errNotReady => 0x03#8
  | .errAlreadyConstructed => 0x04#8
  | .errIllegalCommand => 0x05#8
  | .errPayloadLength => 0x06#8

/-- `MODE.CH` as its bit's number (R33). -/
def chainingNumber : Chaining → Nat
  | .ecb => 0
  | .cbc => 1

/-- `READY` as its bit's number (R33). -/
def readyNumber : Bool → Nat
  | false => 0
  | true => 1

/-- The status register (R33): `zext_8(READY*8 + MODE.CH*4 + MODE.KS)` (43_block_cipher_engine.md rule R200). -/
def statusRegister (s : State) : Byte :=
  BitVec.ofNat 8 (readyNumber s.ready * 8 + chainingNumber s.ch * 4 + s.ks.toNat)

end Sys2Proof.Machine
end

