-- ==== Sys2Proof/Machine/Engine.lean ====
section
/-! DEFINITION. The five engine commands (43_block_cipher_engine.md rules R196 to R200). -/

namespace Sys2Proof.Machine

open Sys2Proof

/-- `STATUS` (R200). -/
def execStatus (inp : List Byte) (s : State) : Result := checkLength 0 inp s (respond [statusRegister s] s)

/-- `INIT` (R196). -/
def execInit (ch : Chaining) (ks : BitVec 2) (inp : List Byte) (s : State) : Result :=
  checkKey ks inp s
    (if s.ready = true then raiseErr .errAlreadyConstructed s
     else respond [] (s.constructed ch ks inp (keyExpansion inp)))

/-- `ENC` (R197): the cipher runs on the plaintext as given, and in CBC its output is XORed with `CV`. -/
def execEnc (inp : List Byte) (s : State) : Result :=
  checkBlock inp s
    (let y := cipher (payloadBlock inp 0) s.w.toList (rounds s.ks)
     match s.ch with
     | .ecb => respond y.bytes s
     | .cbc => respond (cbcEncUpdate y s.cv).1.bytes (s.withCv (cbcEncUpdate y s.cv).2))

/-- `DEC` (R198): in CBC the inverse cipher's input is XORed with the old `CV`, and nothing is applied to its output. -/
def execDec (inp : List Byte) (s : State) : Result :=
  checkBlock inp s
    (let c := payloadBlock inp 0
     match s.ch with
     | .ecb => respond (invCipher c s.w.toList (rounds s.ks)).bytes s
     | .cbc => respond (invCipher (cbcDecUpdate c s.cv).1 s.w.toList (rounds s.ks)).bytes
                 (s.withCv (cbcDecUpdate c s.cv).2))

/-- `ZEROIZE` (R199). -/
def execZeroize (inp : List Byte) (s : State) : Result := checkLength 0 inp s (respond [] s.zeroized)

end Sys2Proof.Machine
end

