-- ==== Sys2Proof/Machine/UnitLookup.lean ====
section
/-! DEFINITION. The eight unit-lookup commands (40_tables_and_gf.md rules R125 to R132). -/

namespace Sys2Proof.Machine

open Sys2Proof

/-- `SBOX` (R125). -/
def execSbox (inp : List Byte) (s : State) : Result := unitCommand sbox inp s

/-- `INVSBOX` (R126). -/
def execInvSbox (inp : List Byte) (s : State) : Result := unitCommand invSbox inp s

/-- `GFMUL2` (R127). -/
def execGfMul2 (inp : List Byte) (s : State) : Result := unitCommand mul2 inp s

/-- `GFMUL3` (R128). -/
def execGfMul3 (inp : List Byte) (s : State) : Result := unitCommand mul3 inp s

/-- `GFMUL9` (R129). -/
def execGfMul9 (inp : List Byte) (s : State) : Result := unitCommand mul9 inp s

/-- `GFMUL11` (R130). -/
def execGfMul11 (inp : List Byte) (s : State) : Result := unitCommand mul11 inp s

/-- `GFMUL13` (R131). -/
def execGfMul13 (inp : List Byte) (s : State) : Result := unitCommand mul13 inp s

/-- `GFMUL14` (R132). -/
def execGfMul14 (inp : List Byte) (s : State) : Result := unitCommand mul14 inp s

end Sys2Proof.Machine
end

