-- ==== Sys2Proof/Machine/Dispatch.lean ====
section
/-! DEFINITION. One arm per command: the meaning of each instruction. -/

namespace Sys2Proof.Machine

open Sys2Proof

def exec (i : Instr) (s : State) : Host.Outcome State Fault Refusal :=
  match i with
  -- engine commands (43_block_cipher_engine.md)
  | .status inp => Sys2Proof.Machine.execStatus inp s
  | .init ch ks inp => Sys2Proof.Machine.execInit ch ks inp s
  | .enc inp => Sys2Proof.Machine.execEnc inp s
  | .dec inp => Sys2Proof.Machine.execDec inp s
  | .zeroize inp => Sys2Proof.Machine.execZeroize inp s
  -- block primitives (42_round_primitives.md) and the key schedule (41_key_schedule.md)
  | .subBytes inp => Sys2Proof.Machine.execSubBytes inp s
  | .invSubBytes inp => Sys2Proof.Machine.execInvSubBytes inp s
  | .shiftRows inp => Sys2Proof.Machine.execShiftRows inp s
  | .invShiftRows inp => Sys2Proof.Machine.execInvShiftRows inp s
  | .mixColumns inp => Sys2Proof.Machine.execMixColumns inp s
  | .invMixColumns inp => Sys2Proof.Machine.execInvMixColumns inp s
  | .addRoundKey inp => Sys2Proof.Machine.execAddRoundKey inp s
  | .transpose inp => Sys2Proof.Machine.execTranspose inp s
  | .keyExpand ks inp => Sys2Proof.Machine.execKeyExpand ks inp s
  -- unit lookups (40_tables_and_gf.md)
  | .sbox inp => Sys2Proof.Machine.execSbox inp s
  | .invSbox inp => Sys2Proof.Machine.execInvSbox inp s
  | .gfMul2 inp => Sys2Proof.Machine.execGfMul2 inp s
  | .gfMul3 inp => Sys2Proof.Machine.execGfMul3 inp s
  | .gfMul9 inp => Sys2Proof.Machine.execGfMul9 inp s
  | .gfMul11 inp => Sys2Proof.Machine.execGfMul11 inp s
  | .gfMul13 inp => Sys2Proof.Machine.execGfMul13 inp s
  | .gfMul14 inp => Sys2Proof.Machine.execGfMul14 inp s

end Sys2Proof.Machine
end

