-- ==== Sys2Proof/Machine/Step.lean ====
section
/-! DEFINITION. One step: the engine takes the host's next event, one at a time and in order (20_memory.md rules R61,
R63; 10_state.md rule R31). -/

namespace Sys2Proof.Machine

open Sys2Proof

/-- One step. A command is decoded and executed; an undefined command byte is answered `ERR_ILLEGAL_COMMAND`
(60_exceptions.md rule R274); a reset takes effect and answers nothing (70_reset_and_hazards.md rule R300); with no
event the engine waits (R302; notes/assumptions/2.md). -/
def step (s : State) : Host.Outcome State Fault Refusal :=
  match nextEvent s with
  | none => .next s
  | some (.reset, t) => .next (takeReset t)
  | some (.resetDuring _ _, t) => .next (takeReset t)
  | some (.command cmd inp, t) =>
    match decode cmd inp with
    | .ok i => exec i t
    | .error _ => raiseErr .errIllegalCommand t

/-- `s` with the command whose bits are `w`, numbered as spec/opcode_table.json numbers them, as the event the next
step takes. -/
def State.withFetchWord (s : State) (nbits w : Nat) : State := placeTableWord s nbits w

end Sys2Proof.Machine
end

