-- ==== Sys2Proof/Machine/Assembly.lean ====
section
/-! DEFINITION. The assembler notation of 30_encoding.md rules R100 and R101: one command a line, its payload in
hexadecimal, byte 0 leftmost (00_scope.md rule R12). The engine sees bytes only; this is how a host writes them. What the
model fixes of the notation is in notes/assumptions/14.md. -/

namespace Sys2Proof.Machine

open Sys2Proof

/-! ## Hexadecimal -/

/-- The digits, by value. -/
def hexDigits : List Char := "0123456789abcdef".toList

/-- The two digits of a byte. -/
def hexByte (b : Byte) : List Char := [hexDigits.getD (b.toNat / 16) '0', hexDigits.getD (b.toNat % 16) '0']

/-- A byte sequence as a hexadecimal string (R12). -/
def hexText (bs : List Byte) : List Char := bs.flatMap hexByte

/-- The value of a digit, of either case. -/
def digitValue (c : Char) : Option Nat :=
  match hexDigits.findIdx? (fun d => d == c), "0123456789ABCDEF".toList.findIdx? (fun d => d == c) with
  | some n, _ => some n
  | none, some n => some n
  | none, none => none

/-- The byte sequence of a hexadecimal string; none if it is not whole bytes of digits. -/
def readHex : List Char → Option (List Byte)
  | [] => some []
  | [_] => none
  | hi :: lo :: rest =>
    match digitValue hi, digitValue lo, readHex rest with
    | some h, some l, some bs => some (BitVec.ofNat 8 (16 * h + l) :: bs)
    | _, _, _ => none

/-! ## Names -/

/-- The mnemonic of a command (R86). -/
def mnemonic : Instr → String
  | .status _ => "STATUS"
  | .init _ _ _ => "INIT"
  | .enc _ => "ENC"
  | .dec _ => "DEC"
  | .zeroize _ => "ZEROIZE"
  | .subBytes _ => "SUBBYTES"
  | .invSubBytes _ => "INVSUBBYTES"
  | .shiftRows _ => "SHIFTROWS"
  | .invShiftRows _ => "INVSHIFTROWS"
  | .mixColumns _ => "MIXCOLUMNS"
  | .invMixColumns _ => "INVMIXCOLUMNS"
  | .addRoundKey _ => "ADDROUNDKEY"
  | .transpose _ => "TRANSPOSE"
  | .keyExpand _ _ => "KEYEXPAND"
  | .sbox _ => "SBOX"
  | .invSbox _ => "INVSBOX"
  | .gfMul2 _ => "GFMUL2"
  | .gfMul3 _ => "GFMUL3"
  | .gfMul9 _ => "GFMUL9"
  | .gfMul11 _ => "GFMUL11"
  | .gfMul13 _ => "GFMUL13"
  | .gfMul14 _ => "GFMUL14"

/-- The document's operation names, accepted as aliases (R101). -/
def resolveAlias (name : String) : String :=
  if name = "new" then "INIT"
  else if name = "encryptBlock" then "ENC"
  else if name = "decryptBlock" then "DEC"
  else name

/-- The key sizes as written, `AES?` for `ks = 11` (R100). -/
def keySizeNames : List (BitVec 2 × String) := [(0#2, "AES128"), (1#2, "AES192"), (2#2, "AES256"), (3#2, "AES?")]

/-- The chaining modes as written (R100). -/
def chainingNames : List (Chaining × String) := [(.ecb, ".ECB"), (.cbc, ".CBC")]

/-- The mode operand of `INIT`, with the fields it stands for (R100). -/
def modeNames : List ((Chaining × BitVec 2) × String) :=
  chainingNames.flatMap fun c => keySizeNames.map fun k => ((c.1, k.1), k.2 ++ c.2)

/-- The entry of a name list under a key. -/
def nameOf {α : Type} [DecidableEq α] (names : List (α × String)) (a : α) : String :=
  ((names.find? fun row => row.1 = a).map Prod.snd).getD ""

/-- The key of a name in a name list. -/
def keyOf {α : Type} (names : List (α × String)) (text : String) : Option α :=
  (names.find? fun row => row.2 = text).map Prod.fst

/-- The status names (60_exceptions.md rule R271). -/
def Status.name : Status → String
  | .ok => "OK"
  | .errBadMode => "ERR_BAD_MODE"
  | .errKeyLength => "ERR_KEY_LENGTH"
  | .errNotReady => "ERR_NOT_READY"
  | .errAlreadyConstructed => "ERR_ALREADY_CONSTRUCTED"
  | .errIllegalCommand => "ERR_ILLEGAL_COMMAND"
  | .errPayloadLength => "ERR_PAYLOAD_LENGTH"

/-! ## Lines -/

/-- The payload part of a line: nothing for an empty payload (R100). -/
def payloadText (lead : List Char) (inp : List Byte) : List Char :=
  match inp with
  | [] => []
  | _ => lead ++ hexText inp

/-- A command as one line (R100). -/
def asmLine (i : Instr) : List Char :=
  (mnemonic i).toList ++
    match i with
    | .init ch ks inp => ' ' :: (nameOf modeNames (ch, ks)).toList ++ payloadText [',', ' '] inp
    | .keyExpand ks inp => ' ' :: (nameOf keySizeNames ks).toList ++ payloadText [',', ' '] inp
    | _ => payloadText [' '] i.payload

/-- A response as it is written after a command (R100). -/
def responseText (r : Response) : List Char := "-> ".toList ++ r.status.name.toList ++ payloadText [' '] r.out

/-- The commands of format F0 by mnemonic (R86). -/
def f0Names : List ((List Byte → Instr) × String) := f0Table.map fun row => (row.2, mnemonic (row.2 []))

/-- A payload without the comma that may stand before it (R100; notes/assumptions/14.md). -/
def withoutComma : List Char → List Char
  | ',' :: text => text
  | text => text

/-- The command part of a line, without the response that R100 writes after `->`. That a line with its response is read,
and that the text after the arrow is not looked at, is the model's choice (notes/assumptions/14.md). -/
def beforeArrow : List Char → List Char
  | [] => []
  | c :: text => if c = '-' ∧ text.head? = some '>' then [] else c :: beforeArrow text

/-- The payload of `ADDROUNDKEY`: one hexadecimal string, or the block and the key as two joined by one bar (R100). Each
string is whole bytes, and a second bar is no digit; that the bar need not stand after 16 bytes, and that either string
may be empty, is the model's choice (notes/assumptions/14.md). -/
def readJoined (text : List Char) : Option (List Byte) :=
  match readHex (text.takeWhile fun c => c ≠ '|'), readHex ((text.dropWhile fun c => c ≠ '|').drop 1) with
  | some block, some key => some (block ++ key)
  | _, _ => none

/-- The command a line stands for (R100, R101): a mnemonic or an alias, for `INIT` and `KEYEXPAND` a mode, and the
payload; a comment and a response may follow. What R100 leaves open of blanks, commas, the bar, the response and the case
of digits is the model's choice (notes/assumptions/14.md). -/
def assemble (line : List Char) : Option Instr :=
  let code := (beforeArrow (line.takeWhile fun c => c ≠ ';')).dropWhile fun c => c = ' '
  let name := resolveAlias (String.ofList (code.takeWhile fun c => c ≠ ' ' && c ≠ ','))
  let rest := (code.dropWhile fun c => c ≠ ' ' && c ≠ ',').filter fun c => c ≠ ' '
  let mode := String.ofList (rest.takeWhile fun c => c ≠ ',')
  let tail := withoutComma (rest.dropWhile fun c => c ≠ ',')
  if name = "INIT" then
    match keyOf modeNames mode, readHex tail with
    | some m, some inp => some (.init m.1 m.2 inp)
    | _, _ => none
  else if name = "KEYEXPAND" then
    match keyOf keySizeNames mode, readHex tail with
    | some ks, some inp => some (.keyExpand ks inp)
    | _, _ => none
  else if name = "ADDROUNDKEY" then
    (readJoined (withoutComma rest)).map .addRoundKey
  else
    match keyOf f0Names name, readHex (withoutComma rest) with
    | some f, some inp => some (f inp)
    | _, _ => none

end Sys2Proof.Machine
end

