-- ==== Sys2Proof/Config.lean ====
section
/-! DEFINITION. What the spec leaves to the implementation (00_scope.md rule R8): named parameters that no rule reads.
Each is a constant without a body, so no proof can lean on a value of it. The engine's meanings read none of them;
only `Platform.reset` (Machine/Platform.lean) reads the number of instances. The constant tables are fixed by the
spec and stand in Machine/Tables.lean. See notes/assumptions/15.md. -/

namespace Sys2Proof

/-- How the tables are realised (R8, `TABLE_IMPL`; 92_eei_decisions.md D20): not observable. -/
inductive TableImpl where
  | rom
  | logic
  | computed
deriving DecidableEq, Repr, Inhabited

/-- The parameter `TABLE_IMPL`, read by no rule (R8, D20). -/
opaque Config.tableImpl : TableImpl

/-- The parameter `BUS`, the platform's physical interface by some number, read by no rule (R8, R59, R80, D1). -/
opaque Config.bus : Nat

/-- The parameter `LATENCY(cmd)`, read by no rule: every command is one atomic step (R8, R320, D21). -/
opaque Config.latency : Byte → Nat

/-- The number of engine instances beyond the first. -/
opaque Config.extraEngines : Nat

/-- The parameter `NUM_ENGINES >= 1` (R8, R41, D22). -/
def Config.numEngines : Nat := Config.extraEngines + 1

end Sys2Proof
end

