-- ==== Sys2Proof/Machine/Platform.lean ====
section
/-! DEFINITION. Several engine instances (10_state.md rule R41; 60_exceptions.md rule R293): each has its own copy of
every element of the state and they share only the constant tables. The host names an instance by its position, which
the spec leaves to the platform (92_eei_decisions.md D22; notes/assumptions/11.md). -/

namespace Sys2Proof.Machine

open Sys2Proof

/-- The engine instances of a platform. -/
abbrev Platform := List State

/-- `NUM_ENGINES` instances right after reset (00_scope.md rule R8). -/
def Platform.reset : Platform := List.replicate Config.numEngines State.reset

/-- The host sends an event to instance `k`; it waits behind the events already sent there (20_memory.md rule R63). That
an event for an instance that is not there reaches no instance is the model's choice (notes/assumptions/11.md). -/
def Platform.send (p : Platform) (k : Nat) (e : HostEvent) : Platform :=
  p.modify k fun s => s.withPending (s.pending ++ [e])

/-- Instance `k` takes its next event; the others are not touched. -/
def Platform.step (p : Platform) (k : Nat) : Host.Outcome Platform Fault Refusal :=
  match p[k]? with
  | none => .fault .noSuchEngine
  | some s =>
    match Sys2Proof.Machine.step s with
    | .next t => .next (p.set k t)
    | .fault f => .fault f
    | .refused r => .refused r

end Sys2Proof.Machine
end

