-- ==== Sys2Proof/Machine/HostStream.lean ====
section
/-! DEFINITION. The host's procedures (45_host_stream_protocol.md): stream encryption and decryption as sequences of
`ENC` and `DEC` commands, and key generation. They are not part of the engine (00_scope.md rule R5). What the model
fixes of them is in notes/assumptions/12.md and 13.md. -/

namespace Sys2Proof.Machine

open Sys2Proof

/-! ## Modes as the document names them -/

/-- The three key sizes (00_scope.md rules R2, R17). -/
inductive KeySize where
  | aes128
  | aes192
  | aes256
deriving DecidableEq, Repr

/-- The `ks` field of a key size (30_encoding.md rule R83). -/
def KeySize.field : KeySize → BitVec 2
  | .aes128 => 0#2
  | .aes192 => 1#2
  | .aes256 => 2#2

/-- The CipherMode of the document (R17). -/
structure CipherMode where
  size : KeySize
  ch   : Chaining
deriving DecidableEq, Repr

/-- `new(mode, key)` is `INIT` with the mode in the command byte and the key as the payload (R19, R251). -/
def CipherMode.new (m : CipherMode) (key : List Byte) : Instr := .init m.ch m.size.field key

/-! ## Issuing a command -/

/-- The host sends a command as its bytes and the engine takes it (R80). -/
def issue (i : Instr) (s : State) : Result := step (s.withPending (.command (commandByte i) i.payload :: s.pending))

/-- Host-level errors, which have no status code (60_exceptions.md rule R281). -/
inductive HostErr where
  /-- The ciphertext stream's length is no multiple of 16 (R248). -/
  | framing
  /-- The entropy source gave too few bytes (R250). -/
  | entropy
deriving DecidableEq, Repr

/-- How a stream procedure ends. -/
inductive StreamEnd where
  /-- All input was processed. -/
  | done
  /-- A host-level error. -/
  | hostErr (e : HostErr)
  /-- A command answered a status other than `OK` (R243). -/
  | commandFailed (st : Status)
  /-- The engine gave no response: only in states no run reaches. -/
  | engineStopped
deriving DecidableEq, Repr

/-- What a host's command gives it: the output payload, or why there is none; and the engine afterwards. -/
inductive BlockReply where
  | ok (out : List Byte) (engine : State)
  | failed (why : StreamEnd) (engine : State)
deriving DecidableEq, Repr

/-- One command of a host procedure. -/
def hostCommand (i : Instr) (s : State) : BlockReply :=
  match issue i s with
  | .next t =>
    match t.response with
    | some ⟨.ok, out⟩ => .ok out t
    | some ⟨st, _⟩ => .failed (.commandFailed st) t
    | none => .failed .engineStopped t
  | .fault _ => .failed .engineStopped s
  | .refused _ => .failed .engineStopped s

/-- The outcome of a stream procedure: the bytes emitted, which stay emitted whatever the end (R255), the return
value "bytes written", how it ended, and the engine afterwards. -/
structure StreamResult where
  output  : List Byte
  written : Nat
  ended   : StreamEnd
  engine  : State
deriving DecidableEq, Repr

/-- `emit(output, out)`, then the rest of the procedure. -/
def StreamResult.after (out : List Byte) (r : StreamResult) : StreamResult :=
  { r with output := out ++ r.output, written := out.length + r.written }

/-- A procedure that ends here and emits nothing more. -/
def StreamResult.stop (why : StreamEnd) (s : State) : StreamResult := ⟨[], 0, why, s⟩

/-! ## Encrypting a stream -/

/-- The padded last block: a final chunk of `count` bytes, 0 to 15, and `16 - count` bytes of that value (R241). -/
def padChunk (chunk : List Byte) : List Byte :=
  chunk ++ List.replicate (16 - chunk.length) (BitVec.ofNat 8 (16 - chunk.length))

/-- The loop of R243: `full` chunks of 16 bytes, then the padded last chunk. -/
def encryptChunks : Nat → List Byte → State → StreamResult
  | 0, input, s =>
    match hostCommand (.enc (padChunk input)) s with
    | .ok out t => (StreamResult.stop .done t).after out
    | .failed why t => StreamResult.stop why t
  | full + 1, input, s =>
    match hostCommand (.enc (input.take 16)) s with
    | .ok out t => (encryptChunks full (input.drop 16) t).after out
    | .failed why t => StreamResult.stop why t

/-- `ENCRYPT_STREAM` (R243). -/
def encryptStream (input : List Byte) (s : State) : StreamResult := encryptChunks (input.length / 16) input s

/-! ## Decrypting a stream -/

/-- The bytes of the last decrypted block that are emitted (R247). -/
def unpad (p : List Byte) : List Byte :=
  let n := (payloadByte p 15).toNat
  if 1 ≤ n ∧ n ≤ 16 then p.take (16 - n) else p

/-- The loop of R246 over the reads still to come, with the block held back: a read that is short and not empty is a
framing error and the held block is not emitted (R248); at the end of input the held block is decrypted and its
padding removed; with no block held nothing is emitted (R249). -/
def decryptChunks : Nat → Option (List Byte) → List Byte → State → StreamResult
  | 0, none, _, s => StreamResult.stop .done s
  | 0, some held, _, s =>
    match hostCommand (.dec held) s with
    | .ok p t => (StreamResult.stop .done t).after (unpad p)
    | .failed why t => StreamResult.stop why t
  | reads + 1, held, input, s =>
    let chunk := input.take 16
    if chunk.length ≠ 16 then StreamResult.stop (.hostErr .framing) s
    else
      match held with
      | none => decryptChunks reads (some chunk) (input.drop 16) s
      | some h =>
        match hostCommand (.dec h) s with
        | .ok p t => (decryptChunks reads (some chunk) (input.drop 16) t).after p
        | .failed why t => StreamResult.stop why t

/-- `DECRYPT_STREAM` (R246). A read of at most 16 bytes is short only at the end of the input (R240). -/
def decryptStream (input : List Byte) (s : State) : StreamResult :=
  decryptChunks ((input.length + 15) / 16) none input s

/-! ## Generating a key -/

/-- `GENERATE_KEY(mode)` on the bytes the host's entropy source gives (R250): the first `keySize(mode)` of them, or the
entropy error when there are too few. No engine command is used. -/
def generateKey (size : KeySize) (entropy : List Byte) : Except HostErr (List Byte) :=
  if entropy.length < keySize size.field then .error .entropy else .ok (entropy.take (keySize size.field))

end Sys2Proof.Machine
end

