-- ==== Sys2Proof/Safety.lean ====
section
/-! DEFINITION. The terms claims are made in: the invariant of the reachable states (10_state.md rules R26, R27), what
a command is expected to report (60_exceptions.md rules R271 to R282), and runs of several commands. -/

namespace Sys2Proof.Machine

open Sys2Proof

/-! ## The invariant -/

/-- An unconstructed engine is all zero (R26). -/
def State.ZeroWhenNotReady (s : State) : Prop :=
  s.ready = false →
    s.ks = 0#2 ∧ s.ch = .ecb ∧ s.key = Vector.replicate 32 0#8 ∧ s.w = Vector.replicate 60 Word.zero ∧
      s.cv = Block.zero

/-- A constructed engine has a legal mode; its schedule is the expansion of its key; the unused parts of `KEY` and `W`
are zero; and in ECB the chaining value is zero (R27). -/
def State.ScheduledWhenReady (s : State) : Prop :=
  s.ready = true →
    s.ks ≠ 3#2 ∧
    s.w.toList.take (scheduleWords s.ks) = keyExpansion (s.key.toList.take (keySize s.ks)) ∧
    (∀ i : Fin 32, keySize s.ks ≤ i.val → s.key[i] = 0#8) ∧
    (∀ c : Fin 60, scheduleWords s.ks ≤ c.val → s.w[c] = Word.zero) ∧
    (s.ch = .ecb → s.cv = Block.zero)

/-- The invariant of R26 and R27. -/
def State.Inv (s : State) : Prop := s.ZeroWhenNotReady ∧ s.ScheduledWhenReady

/-! ## Comparing states -/

/-- The elements of R20 of two states are the same (the transaction interface may differ). -/
def State.SameEngine (s t : State) : Prop :=
  s.ready = t.ready ∧ s.ks = t.ks ∧ s.ch = t.ch ∧ s.key = t.key ∧ s.w = t.w ∧ s.cv = t.cv

/-- What any command may read of the engine other than secrets: `READY` and `MODE` (10_state.md rule R37). -/
def State.SamePublic (s t : State) : Prop := s.ready = t.ready ∧ s.ks = t.ks ∧ s.ch = t.ch

/-! ## What a command answers -/

/-- The status a command is to report: the first error that applies in the order of 60_exceptions.md rule R280, or
`OK`. -/
def expectedStatus (i : Instr) (s : State) : Status :=
  match i.requiredLength with
  | none => .errBadMode
  | some n =>
    if i.payload.length ≠ n then
      match i with
      | .init _ _ _ => .errKeyLength
      | .keyExpand _ _ => .errKeyLength
      | _ => .errPayloadLength
    else
      match i with
      | .enc _ => if s.ready then .ok else .errNotReady
      | .dec _ => if s.ready then .ok else .errNotReady
      | .init _ _ _ => if s.ready then .errAlreadyConstructed else .ok
      | _ => .ok

/-- The output payload length of a command that answers `OK`, the `out` column of 30_encoding.md rule R86. -/
def outputLength : Instr → Nat
  | .status _ => 1
  | .init _ _ _ => 0
  | .enc _ => 16
  | .dec _ => 16
  | .zeroize _ => 0
  | .subBytes _ => 16
  | .invSubBytes _ => 16
  | .shiftRows _ => 16
  | .invShiftRows _ => 16
  | .mixColumns _ => 16
  | .invMixColumns _ => 16
  | .addRoundKey _ => 16
  | .transpose _ => 16
  | .keyExpand ks _ => 16 * (11 + 2 * ks.toNat)
  | .sbox _ => 1
  | .invSbox _ => 1
  | .gfMul2 _ => 1
  | .gfMul3 _ => 1
  | .gfMul9 _ => 1
  | .gfMul11 _ => 1
  | .gfMul13 _ => 1
  | .gfMul14 _ => 1

/-- `ENC` and `DEC`, the only commands that read the key schedule and the chaining value (10_state.md rule R30). -/
def isBlockOperation (i : Instr) : Bool :=
  match i with
  | .enc _ => true
  | .dec _ => true
  | _ => false

/-! ## Runs of commands -/

/-- A command executed and what it answered. -/
structure Exchange where
  instr    : Instr
  response : Response
deriving DecidableEq, Repr

/-- The commands of a list executed in order (20_memory.md rule R63), with what each answered; `none` if the machine
stops or gives no response. -/
def runCommands : List Instr → State → Option (List Exchange × State)
  | [], s => some ([], s)
  | i :: rest, s =>
    match exec i s with
    | .next t =>
      match t.response with
      | some r => (runCommands rest t).map fun q => (⟨i, r⟩ :: q.1, q.2)
      | none => none
    | .fault _ => none
    | .refused _ => none

/-- The output payloads of the commands of a run. -/
def outputs (xs : List Exchange) : List (List Byte) := xs.map fun x => x.response.out

/-- `E(p)` of an engine: the block cipher under its schedule (44_cbc_chaining.md rule R224). -/
def State.encipher (s : State) (p : Block) : Block := cipher p s.w.toList (rounds s.ks)

/-- `D(x)` of an engine (R225). -/
def State.decipher (s : State) (x : Block) : Block := invCipher x s.w.toList (rounds s.ks)

/-- An engine constructed in CBC mode through which no block has gone since (R223). -/
def State.FreshCbc (s : State) : Prop := s.ready = true ∧ s.ks ≠ 3#2 ∧ s.ch = .cbc ∧ s.cv = Block.zero

/-- The ciphertext blocks an engine answers to a sequence of `ENC` commands; none if one of them fails. -/
def ciphertexts (ps : List Block) (s : State) : Option (List Block) :=
  (runCommands (ps.map fun p => .enc p.bytes) s).map fun q => (outputs q.1).map fun o => payloadBlock o 0

/-- The `XOR` of the blocks of a list. -/
def xorAll (bs : List Block) : Block := bs.foldl Block.xor Block.zero

/-- The ciphertext block that crosses the interface last, given the one before (44_cbc_chaining.md rule R223): the output
of a successful `ENC`, the input of a successful `DEC`. -/
def lastCiphertext (cv : Block) (x : Exchange) : Block :=
  match x.response.status with
  | .ok =>
    match x.instr with
    | .enc _ => payloadBlock x.response.out 0
    | .dec inp => payloadBlock inp 0
    | _ => cv
  | _ => cv

end Sys2Proof.Machine
end

