-- ==== Sys2Proof/Certificates/Slice0/Obligations.lean ====
section
/-! DEFINITION. The statements for the provers. Each docstring names the rules it formalises; where a clause rests on a
choice of the model, it names the log entry. A state is written as the old state with the fields that change, so each
statement of a result is also the statement of its frame. -/

open Sys2Proof Sys2Proof.Machine

/-! ## Encoding and the step -/

/-- R90: decoding is total, by three tests that cannot overlap. The fields are read by arithmetic on the byte's number. -/
def Obligations.DecodingFollowsTheThreeTests : Prop :=
  (∀ (cmd : Byte) (inp : List Byte), cmd.toNat / 8 = 2 →
      decode cmd inp =
        .ok (.init (if cmd.toNat / 4 % 2 = 1 then .cbc else .ecb) (BitVec.ofNat 2 (cmd.toNat % 4)) inp)) ∧
  (∀ (cmd : Byte) (inp : List Byte), cmd.toNat / 4 = 18 →
      decode cmd inp = .ok (.keyExpand (BitVec.ofNat 2 (cmd.toNat % 4)) inp)) ∧
  (∀ inp : List Byte,
      decode 0x00#8 inp = .ok (.status inp) ∧ decode 0x20#8 inp = .ok (.enc inp) ∧
      decode 0x21#8 inp = .ok (.dec inp) ∧ decode 0x30#8 inp = .ok (.zeroize inp) ∧
      decode 0x40#8 inp = .ok (.subBytes inp) ∧ decode 0x41#8 inp = .ok (.invSubBytes inp) ∧
      decode 0x42#8 inp = .ok (.shiftRows inp) ∧ decode 0x43#8 inp = .ok (.invShiftRows inp) ∧
      decode 0x44#8 inp = .ok (.mixColumns inp) ∧ decode 0x45#8 inp = .ok (.invMixColumns inp) ∧
      decode 0x46#8 inp = .ok (.addRoundKey inp) ∧ decode 0x47#8 inp = .ok (.transpose inp) ∧
      decode 0x80#8 inp = .ok (.sbox inp) ∧ decode 0x81#8 inp = .ok (.invSbox inp) ∧
      decode 0x92#8 inp = .ok (.gfMul2 inp) ∧ decode 0x93#8 inp = .ok (.gfMul3 inp) ∧
      decode 0x99#8 inp = .ok (.gfMul9 inp) ∧ decode 0x9B#8 inp = .ok (.gfMul11 inp) ∧
      decode 0x9D#8 inp = .ok (.gfMul13 inp) ∧ decode 0x9E#8 inp = .ok (.gfMul14 inp)) ∧
  (∀ (cmd : Byte) (inp : List Byte), cmd.toNat / 8 ≠ 2 → cmd.toNat / 4 ≠ 18 →
      cmd ∉ [0x00#8, 0x20#8, 0x21#8, 0x30#8, 0x40#8, 0x41#8, 0x42#8, 0x43#8, 0x44#8, 0x45#8, 0x46#8, 0x47#8,
             0x80#8, 0x81#8, 0x92#8, 0x93#8, 0x99#8, 0x9B#8, 0x9D#8, 0x9E#8] →
      decode cmd inp = .error (.illegalCommand cmd))

/-- R81 to R86: decoding the encoding of any command gives it back, with every field and payload, and whatever a byte
sequence decodes to encodes to that byte sequence. -/
def Obligations.DecodeAndEncodeAgree : Prop :=
  (∀ i : Instr, decodeBytes (encode i) = .ok i) ∧
  (∀ (bytes : List Byte) (i : Instr), decodeBytes bytes = .ok i → encode i = bytes)

/-- R86, R85: command bytes written out from the opcode map, every format among them. -/
def Obligations.SampleCommandBytesDecode : Prop :=
  decodeBytes [0b00000000#8] = .ok (.status []) ∧
  decodeBytes [0b00010110#8, 0xAA#8] = .ok (.init .cbc 2#2 [0xAA#8]) ∧
  decodeBytes [0b00010001#8] = .ok (.init .ecb 1#2 []) ∧
  decodeBytes [0b00100001#8] = .ok (.dec []) ∧
  decodeBytes [0b01000110#8, 0x01#8, 0x02#8] = .ok (.addRoundKey [0x01#8, 0x02#8]) ∧
  decodeBytes [0b01001011#8] = .ok (.keyExpand 3#2 []) ∧
  decodeBytes [0b10000001#8, 0xED#8] = .ok (.invSbox [0xED#8]) ∧
  decodeBytes [0b10011110#8, 0x57#8] = .ok (.gfMul14 [0x57#8]) ∧
  decodeBytes [0b00011000#8] = .error (.illegalCommand 0x18#8)

/-- The 224 illegal command byte values as R89 lists them, by first and last value of each run. -/
def illegalRuns : List (Nat × Nat) :=
  [(0x01, 0x0F), (0x18, 0x1F), (0x22, 0x2F), (0x31, 0x3F), (0x4C, 0x4F), (0x50, 0x7F), (0x82, 0x8F), (0x90, 0x90),
   (0x91, 0x91), (0x94, 0x98), (0x9A, 0x9A), (0x9C, 0x9C), (0x9F, 0x9F), (0xA0, 0xFF)]

/-- Whether R89 lists a command byte. -/
def listedIllegal (cmd : Byte) : Bool := illegalRuns.any fun r => r.1 ≤ cmd.toNat && cmd.toNat ≤ r.2

/-- R89, R274: exactly the 224 listed bytes are illegal, and each is answered `ERR_ILLEGAL_COMMAND` with an empty
output payload and no state change, whatever the payload. That a command waits in an event queue is the model's choice
(notes/assumptions/1.md). -/
def Obligations.ListedBytesAreIllegalAndChangeNothing : Prop :=
  ((List.range 256).countP fun n => listedIllegal (BitVec.ofNat 8 n)) = 224 ∧
  (∀ (cmd : Byte) (inp : List Byte), listedIllegal cmd = true ↔ decode cmd inp = .error (.illegalCommand cmd)) ∧
  (∀ (s : State) (cmd : Byte) (inp : List Byte) (es : List HostEvent),
      s.pending = .command cmd inp :: es → listedIllegal cmd = true →
      step s = .next { s with pending := es, response := some ⟨.errIllegalCommand, []⟩ })

/-- R61, R63, R80: when the next event is a command that decodes to `i`, the step is `i`'s execution on the state with
that event taken; the event queue is the model's (notes/assumptions/1.md). With no event the engine waits
(notes/assumptions/2.md). -/
def Obligations.StepRunsTheDecodedCommand : Prop :=
  (∀ (s : State) (cmd : Byte) (inp : List Byte) (es : List HostEvent) (i : Instr),
      s.pending = .command cmd inp :: es → decode cmd inp = .ok i → step s = exec i { s with pending := es }) ∧
  (∀ s : State, s.pending = [] → step s = .next s) ∧
  (∀ (i : Instr) (s t : State), exec i s = .next t → t.pending = s.pending)

/-! ## Reset -/

/-- R300: a reset between commands or during one gives the reset values and no response, and `ZEROIZE` leaves the same
engine. That the host's later events stay is the model's choice (notes/assumptions/1.md, 7.md). -/
def Obligations.ResetClearsEveryElement : Prop :=
  (∀ (s : State) (es : List HostEvent), s.pending = .reset :: es → step s = .next { State.reset with pending := es }) ∧
  (∀ (s : State) (cmd : Byte) (inp : List Byte) (es : List HostEvent), s.pending = .resetDuring cmd inp :: es →
      step s = .next { State.reset with pending := es }) ∧
  (State.reset.ready = false ∧ State.reset.ks = 0#2 ∧ State.reset.ch = .ecb ∧
    (∀ i : Fin 32, State.reset.key[i] = 0x00#8) ∧
    (∀ c : Fin 60, State.reset.w[c] = ⟨0x00#8, 0x00#8, 0x00#8, 0x00#8⟩) ∧
    State.reset.cv.bytes = List.replicate 16 0x00#8 ∧ State.reset.response = none) ∧
  (∀ s t : State, exec (.zeroize []) s = .next t → t.SameEngine State.reset)

/-- R302: after reset `STATUS` returns `OK 00`, `ENC` and `DEC` return `ERR_NOT_READY`, and the pure commands work. -/
def Obligations.AfterResetOnlyTheEngineIsMissing : Prop :=
  exec (.status []) State.reset = .next { State.reset with response := some ⟨.ok, [0x00#8]⟩ } ∧
  (∀ inp : List Byte, inp.length = 16 →
      exec (.enc inp) State.reset = .next { State.reset with response := some ⟨.errNotReady, []⟩ } ∧
      exec (.dec inp) State.reset = .next { State.reset with response := some ⟨.errNotReady, []⟩ }) ∧
  (∀ i : Instr, i.isPure = true → i.wellFormed = true →
      ∃ out, exec i State.reset = .next { State.reset with response := some ⟨.ok, out⟩ })

/-! ## The engine commands -/

/-- R200, R33: the output byte of `STATUS` is the status register, field by field; nothing is written; a payload is
an error. -/
def Obligations.StatusReportsReadyAndMode : Prop :=
  (∀ s : State, ∃ b : Byte,
      exec (.status []) s = .next { s with response := some ⟨.ok, [b]⟩ } ∧
      b.extractLsb' 4 4 = 0#4 ∧ b.getLsbD 3 = s.ready ∧ b.getLsbD 2 = (s.ch == Chaining.cbc) ∧
      b.extractLsb' 0 2 = s.ks ∧
      (s.Inv → b ∈ [0x00#8, 0x08#8, 0x09#8, 0x0A#8, 0x0C#8, 0x0D#8, 0x0E#8])) ∧
  (∀ (inp : List Byte) (s : State), inp.length ≠ 0 →
      exec (.status inp) s = .next { s with response := some ⟨.errPayloadLength, []⟩ })

/-- R196: `INIT` checks mode, key length and `READY` in that order, and otherwise writes every element. -/
def Obligations.InitConstructsTheEngine : Prop :=
  (∀ (ch : Chaining) (inp : List Byte) (s : State),
      exec (.init ch 3#2 inp) s = .next { s with response := some ⟨.errBadMode, []⟩ }) ∧
  (∀ (ch : Chaining) (ks : BitVec 2) (inp : List Byte) (s : State),
      ks ≠ 3#2 → inp.length ≠ 16 + 8 * ks.toNat →
      exec (.init ch ks inp) s = .next { s with response := some ⟨.errKeyLength, []⟩ }) ∧
  (∀ (ch : Chaining) (ks : BitVec 2) (inp : List Byte) (s : State),
      ks ≠ 3#2 → inp.length = 16 + 8 * ks.toNat → s.ready = true →
      exec (.init ch ks inp) s = .next { s with response := some ⟨.errAlreadyConstructed, []⟩ }) ∧
  (∀ (ch : Chaining) (ks : BitVec 2) (inp : List Byte) (s : State),
      ks ≠ 3#2 → inp.length = 16 + 8 * ks.toNat → s.ready = false →
      ∃ t, exec (.init ch ks inp) s = .next t ∧
        t.response = some ⟨.ok, []⟩ ∧ t.pending = s.pending ∧
        t.ready = true ∧ t.ks = ks ∧ t.ch = ch ∧
        (∀ i : Fin 32, t.key[i] = if i.val < 16 + 8 * ks.toNat then payloadByte inp i.val else 0x00#8) ∧
        (∀ c : Fin 60, t.w[c] =
          if c.val < 44 + 8 * ks.toNat then (keyExpansion inp).getD c.val Word.zero else Word.zero) ∧
        t.cv = Block.zero) ∧
  (∀ s : State, s.ready = false →
      ∃ t, exec (.init .ecb 0#2 (hexBytes 16 0)) s = .next t ∧ t.w[4] = ⟨0x62#8, 0x63#8, 0x63#8, 0x63#8⟩ ∧
        exec (.status []) t = .next { t with response := some ⟨.ok, [0x08#8]⟩ })

/-- R197, R221: `ENC` runs the cipher on the plaintext as given; in CBC the output is XORed with `CV` and becomes the new
`CV`; in ECB nothing but the response is written. -/
def Obligations.EncEnciphersAndChains : Prop :=
  (∀ (inp : List Byte) (s : State), inp.length ≠ 16 →
      exec (.enc inp) s = .next { s with response := some ⟨.errPayloadLength, []⟩ }) ∧
  (∀ (inp : List Byte) (s : State), inp.length = 16 → s.ready = false →
      exec (.enc inp) s = .next { s with response := some ⟨.errNotReady, []⟩ }) ∧
  (∀ (b : Block) (s : State), s.ready = true → s.ks ≠ 3#2 → s.ch = .ecb →
      exec (.enc b.bytes) s =
        .next { s with response := some ⟨.ok, (cipher b s.w.toList (10 + 2 * s.ks.toNat)).bytes⟩ }) ∧
  (∀ (b : Block) (s : State), s.ready = true → s.ks ≠ 3#2 → s.ch = .cbc →
      exec (.enc b.bytes) s =
        .next { s with
          response := some ⟨.ok, ((cipher b s.w.toList (10 + 2 * s.ks.toNat)).xor s.cv).bytes⟩
          cv := (cipher b s.w.toList (10 + 2 * s.ks.toNat)).xor s.cv }) ∧
  (runCommands [.init .ecb 0#2 (hexBytes 16 0), .enc (hexBytes 16 0)] State.reset).map (fun q => outputs q.1) =
    some [[], hexBytes 16 0x66e94bd4ef8a2c3b884cfa59ca342b2e] ∧
  cbcEncUpdate (payloadBlock (hexBytes 16 0x1b872378795f4ffd772855fc87ca964d) 0)
      (payloadBlock (hexBytes 16 0x69c4e0d86a7b0430d8cdb78070b4c55a) 0) =
    (payloadBlock (hexBytes 16 0x7243c3a013244bcdafe5e27cf77e5317) 0,
     payloadBlock (hexBytes 16 0x7243c3a013244bcdafe5e27cf77e5317) 0)

/-- R198, R222: in CBC `DEC` XORs its input with the old `CV`, which becomes the input as received; nothing is applied to
the inverse cipher's output; in ECB nothing but the response is written. -/
def Obligations.DecDeciphersAndChains : Prop :=
  (∀ (inp : List Byte) (s : State), inp.length ≠ 16 →
      exec (.dec inp) s = .next { s with response := some ⟨.errPayloadLength, []⟩ }) ∧
  (∀ (inp : List Byte) (s : State), inp.length = 16 → s.ready = false →
      exec (.dec inp) s = .next { s with response := some ⟨.errNotReady, []⟩ }) ∧
  (∀ (b : Block) (s : State), s.ready = true → s.ks ≠ 3#2 → s.ch = .ecb →
      exec (.dec b.bytes) s =
        .next { s with response := some ⟨.ok, (invCipher b s.w.toList (10 + 2 * s.ks.toNat)).bytes⟩ }) ∧
  (∀ (b : Block) (s : State), s.ready = true → s.ks ≠ 3#2 → s.ch = .cbc →
      exec (.dec b.bytes) s =
        .next { s with
          response := some ⟨.ok, (invCipher (b.xor s.cv) s.w.toList (10 + 2 * s.ks.toNat)).bytes⟩
          cv := b }) ∧
  (runCommands [.init .ecb 0#2 (hexBytes 16 0), .dec (hexBytes 16 0x66e94bd4ef8a2c3b884cfa59ca342b2e)]
      State.reset).map (fun q => outputs q.1) = some [[], hexBytes 16 0] ∧
  cbcDecUpdate (payloadBlock (hexBytes 16 0x7243c3a013244bcdafe5e27cf77e5317) 0)
      (payloadBlock (hexBytes 16 0x69c4e0d86a7b0430d8cdb78070b4c55a) 0) =
    (payloadBlock (hexBytes 16 0x1b872378795f4ffd772855fc87ca964d) 0,
     payloadBlock (hexBytes 16 0x7243c3a013244bcdafe5e27cf77e5317) 0)

/-- R199: `ZEROIZE` writes every element to its reset value, in any state; a payload is an error. -/
def Obligations.ZeroizeDestroysTheEngine : Prop :=
  (∀ s : State, exec (.zeroize []) s =
      .next { State.reset with pending := s.pending, response := some ⟨.ok, []⟩ }) ∧
  (∀ (inp : List Byte) (s : State), inp.length ≠ 0 →
      exec (.zeroize inp) s = .next { s with response := some ⟨.errPayloadLength, []⟩ }) ∧
  (∀ s t : State, exec (.zeroize []) s = .next t →
      exec (.status []) t = .next { t with response := some ⟨.ok, [0x00#8]⟩ } ∧
      (∀ b : Block, exec (.enc b.bytes) t = .next { t with response := some ⟨.errNotReady, []⟩ } ∧
        exec (.dec b.bytes) t = .next { t with response := some ⟨.errNotReady, []⟩ }) ∧
      (∀ (ch : Chaining) (ks : BitVec 2) (key : List Byte), ks ≠ 3#2 → key.length = 16 + 8 * ks.toNat →
        ∃ u, exec (.init ch ks key) t = .next u ∧ u.response = some ⟨.ok, []⟩) ∧
      exec (.zeroize []) t = .next t)

/-- R54 and the model's fault (notes/assumptions/3.md): the only stop of a command is `ENC` or `DEC` with a block on a
constructed engine whose `MODE.KS` is 3, which R27 says is never stored; there they stop so. No command is refused. -/
def Obligations.OnlyAnIllegalModeStopsACommand : Prop :=
  (∀ (i : Instr) (s : State) (f : Fault), exec i s = .fault f ↔
      (f = .scheduleIndex ∧ isBlockOperation i = true ∧ i.payload.length = 16 ∧ s.ready = true ∧ s.ks = 3#2)) ∧
  (∀ (i : Instr) (s : State) (r : Refusal), exec i s ≠ .refused r)

/-! ## The tables and the field -/

/-- R112, R119: `xtime` bit by bit, and the identities between the units, for every byte. -/
def Obligations.UnitIdentitiesHold : Prop :=
  (∀ a : Byte, (xtime a).getLsbD 0 = a.getLsbD 7 ∧ (xtime a).getLsbD 1 = (a.getLsbD 0 ^^ a.getLsbD 7) ∧
      (xtime a).getLsbD 2 = a.getLsbD 1 ∧ (xtime a).getLsbD 3 = (a.getLsbD 2 ^^ a.getLsbD 7) ∧
      (xtime a).getLsbD 4 = (a.getLsbD 3 ^^ a.getLsbD 7) ∧ (xtime a).getLsbD 5 = a.getLsbD 4 ∧
      (xtime a).getLsbD 6 = a.getLsbD 5 ∧ (xtime a).getLsbD 7 = a.getLsbD 6) ∧
  (∀ a : Byte, mul3 a = mul2 a ^^^ a ∧ mul9 a = mul2 (mul2 (mul2 a)) ^^^ a ∧ mul11 a = mul9 a ^^^ mul2 a ∧
      mul13 a = mul9 a ^^^ mul2 (mul2 a) ∧ mul14 a = mul2 (mul2 (mul2 a)) ^^^ mul2 (mul2 a) ^^^ mul2 a ∧
      mul14 (mul2 a) ^^^ mul11 a ^^^ mul13 a ^^^ mul9 (mul3 a) = a) ∧
  (∀ f ∈ [mul2, mul3, mul9, mul11, mul13, mul14], f 0x00#8 = 0x00#8 ∧ ∀ a b : Byte, f a = f b → a = b)

/-- A 256-entry table's contents in index order. -/
def tableContents (f : Byte → Byte) : List Byte := (List.range 256).map fun n => f (BitVec.ofNat 8 n)

/-- R113 to R118: the six multiply units hold the grids of their rules, and are the products with their constants. -/
def Obligations.MultiplyUnitsHoldTheirGrids : Prop :=
  tableContents mul2 = hexBytes 256 0x00020406080a0c0e10121416181a1c1e20222426282a2c2e30323436383a3c3e40424446484a4c4e50525456585a5c5e60626466686a6c6e70727476787a7c7e80828486888a8c8e90929496989a9c9ea0a2a4a6a8aaacaeb0b2b4b6b8babcbec0c2c4c6c8caccced0d2d4d6d8dadcdee0e2e4e6e8eaeceef0f2f4f6f8fafcfe1b191f1d131117150b090f0d030107053b393f3d333137352b292f2d232127255b595f5d535157554b494f4d434147457b797f7d737177756b696f6d636167659b999f9d939197958b898f8d83818785bbb9bfbdb3b1b7b5aba9afada3a1a7a5dbd9dfddd3d1d7d5cbc9cfcdc3c1c7c5fbf9fffdf3f1f7f5ebe9efede3e1e7e5 ∧
  tableContents mul3 = hexBytes 256 0x000306050c0f0a09181b1e1d14171211303336353c3f3a39282b2e2d24272221606366656c6f6a69787b7e7d74777271505356555c5f5a59484b4e4d44474241c0c3c6c5cccfcac9d8dbdeddd4d7d2d1f0f3f6f5fcfffaf9e8ebeeede4e7e2e1a0a3a6a5acafaaa9b8bbbebdb4b7b2b1909396959c9f9a99888b8e8d848782819b989d9e97949192838085868f8c898aaba8adaea7a4a1a2b3b0b5b6bfbcb9bafbf8fdfef7f4f1f2e3e0e5e6efece9eacbc8cdcec7c4c1c2d3d0d5d6dfdcd9da5b585d5e57545152434045464f4c494a6b686d6e67646162737075767f7c797a3b383d3e37343132232025262f2c292a0b080d0e07040102131015161f1c191a ∧
  tableContents mul9 = hexBytes 256 0x0009121b242d363f48415a536c657e779099828bb4bda6afd8d1cac3fcf5eee73b3229201f160d04737a6168575e454caba2b9b08f869d94e3eaf1f8c7ced5dc767f646d525b40493e372c251a130801e6eff4fdc2cbd0d9aea7bcb58a8398914d445f5669607b72050c171e2128333addd4cfc6f9f0ebe2959c878eb1b8a3aaece5fef7c8c1dad3a4adb6bf8089929b7c756e6758514a43343d262f1019020bd7dec5ccf3fae1e89f968d84bbb2a9a0474e555c636a71780f061d142b2239309a938881beb7aca5d2dbc0c9f6ffe4ed0a0318112e273c35424b5059666f747da1a8b3ba858c979ee9e0fbf2cdc4dfd63138232a151c070e79706b625d544f46 ∧
  tableContents mul11 = hexBytes 256 0x000b161d2c273a3158534e45747f6269b0bba6ad9c978a81e8e3fef5c4cfd2d97b706d66575c414a2328353e0f041912cbc0ddd6e7ecf1fa9398858ebfb4a9a2f6fde0ebdad1ccc7aea5b8b38289949f464d505b6a617c771e1508033239242f8d869b90a1aab7bcd5dec3c8f9f2efe43d362b20111a070c656e737849425f54f7fce1eadbd0cdc6afa4b9b28388959e474c515a6b607d761f1409023338252e8c879a91a0abb6bdd4dfc2c9f8f3eee53c372a21101b060d646f727948435e55010a171c2d263b3059524f44757e6368b1baa7ac9d968b80e9e2fff4c5ced3d87a716c67565d404b2229343f0e051813cac1dcd7e6edf0fb9299848fbeb5a8a3 ∧
  tableContents mul13 = hexBytes 256 0x000d1a1734392e236865727f5c51464bd0ddcac7e4e9fef3b8b5a2af8c81969bbbb6a1ac8f829598d3dec9c4e7eafdf06b66717c5f524548030e1914373a2d206d60777a5954434e05081f12313c2b26bdb0a7aa8984939ed5d8cfc2e1ecfbf6d6dbccc1e2eff8f5beb3a4a98a87909d060b1c11323f28256e6374795a57404ddad7c0cdeee3f4f9b2bfa8a5868b9c910a07101d3e332429626f7875565b4c41616c7b7655584f420904131e3d30272ab1bcaba685889f92d9d4c3ceede0f7fab7baada0838e9994dfd2c5c8ebe6f1fc676a7d70535e49440f0215183b36212c0c01161b3835222f64697e73505d4a47dcd1c6cbe8e5f2ffb4b9aea3808d9a97 ∧
  tableContents mul14 = hexBytes 256 0x000e1c123836242a707e6c624846545ae0eefcf2d8d6c4ca909e8c82a8a6b4badbd5c7c9e3edfff1aba5b7b9939d8f813b352729030d1f114b455759737d6f61ada3b1bf959b8987ddd3c1cfe5ebf9f74d43515f757b69673d33212f050b191776786a644e40525c06081a143e30222c96988a84aea0b2bce6e8faf4ded0c2cc414f5d537977656b313f2d230907151ba1afbdb39997858bd1dfcdc3e9e7f5fb9a948688a2acbeb0eae4f6f8d2dccec07a746668424c5e500a041618323c2e20ece2f0fed4dac8c69c92808ea4aab8b60c02101e343a28267c72606e444a585637392b250f01131d47495b557f71636dd7d9cbc5efe1f3fda7a9bbb59f91838d ∧
  (∀ a : Byte, mul2 a = gfMul 2 a ∧ mul3 a = gfMul 3 a ∧ mul9 a = gfMul 9 a ∧ mul11 a = gfMul 11 a ∧
      mul13 a = gfMul 13 a ∧ mul14 a = gfMul 14 a) ∧
  (∀ a : Byte, mul2 a = xtime a ∧ mul3 a = xtime a ^^^ a ∧ mul9 a = xtime (xtime (xtime a)) ^^^ a ∧
      mul11 a = xtime (xtime (xtime a)) ^^^ xtime a ^^^ a ∧
      mul13 a = xtime (xtime (xtime a)) ^^^ xtime (xtime a) ^^^ a ∧
      mul14 a = xtime (xtime (xtime a)) ^^^ xtime (xtime a) ^^^ xtime a)

/-- R120 to R124: the S-box is the affine map of the field inverse, a permutation without a fixed point; the inverse
S-box is its inverse; each round constant is `x` times the one before. -/
def Obligations.SubstitutionTablesAreAsConstructed : Prop :=
  (∀ a : Byte, ∃ b : Byte, (a = 0x00#8 → b = 0x00#8) ∧ (a ≠ 0x00#8 → gfMul a b = 0x01#8) ∧
      sbox a = b ^^^ b.rotateLeft 1 ^^^ b.rotateLeft 2 ^^^ b.rotateLeft 3 ^^^ b.rotateLeft 4 ^^^ 0x63#8) ∧
  (∀ a : Byte, invSbox (sbox a) = a ∧ sbox (invSbox a) = a ∧ sbox a ≠ a) ∧
  sbox 0x00#8 = 0x63#8 ∧ invSbox 0x63#8 = 0x00#8 ∧ invSbox 0x00#8 = 0x52#8 ∧
  rcon 1 = 0x01#8 ∧ (∀ i : Nat, 1 ≤ i → i < 10 → rcon (i + 1) = xtime (rcon i)) ∧ rcon 10 = 0x36#8

/-- R110, R111(c) to (e): multiplication in the field is linear in each factor and has the units' constants as non-zero
factors. -/
def Obligations.FieldMultiplicationIsLinear : Prop :=
  (∀ k a b : Byte, gfMul k (a ^^^ b) = gfMul k a ^^^ gfMul k b) ∧
  (∀ j k a : Byte, gfMul (j ^^^ k) a = gfMul j a ^^^ gfMul k a) ∧
  (∀ k a : Byte, gfMul k 0x00#8 = 0x00#8 ∧ gfMul 0x01#8 a = a) ∧
  (∀ k ∈ [2#8, 3#8, 9#8, 11#8, 13#8, 14#8], ∀ a b : Byte, gfMul k a = gfMul k b → a = b)

/-! ## The unit-lookup commands -/

/-- R125, R126: `SBOX` and `INVSBOX` answer the table entry of their one-byte payload and change nothing. -/
def Obligations.SboxCommandsLookUpOneByte : Prop :=
  (∀ (a : Byte) (s : State),
      exec (.sbox [a]) s = .next { s with response := some ⟨.ok, [sbox a]⟩ } ∧
      exec (.invSbox [a]) s = .next { s with response := some ⟨.ok, [invSbox a]⟩ } ∧ sbox a ≠ a) ∧
  (∀ (inp : List Byte) (s : State), inp.length ≠ 1 →
      exec (.sbox inp) s = .next { s with response := some ⟨.errPayloadLength, []⟩ } ∧
      exec (.invSbox inp) s = .next { s with response := some ⟨.errPayloadLength, []⟩ }) ∧
  tableContents sbox = hexBytes 256 0x637c777bf26b6fc53001672bfed7ab76ca82c97dfa5947f0add4a2af9ca472c0b7fd9326363ff7cc34a5e5f171d8311504c723c31896059a071280e2eb27b27509832c1a1b6e5aa0523bd6b329e32f8453d100ed20fcb15b6acbbe394a4c58cfd0efaafb434d338545f9027f503c9fa851a3408f929d38f5bcb6da2110fff3d2cd0c13ec5f974417c4a77e3d645d197360814fdc222a908846eeb814de5e0bdbe0323a0a4906245cc2d3ac629195e479e7c8376d8dd54ea96c56f4ea657aae08ba78252e1ca6b4c6e8dd741f4bbd8b8a703eb5664803f60e613557b986c11d9ee1f8981169d98e949b1e87e9ce5528df8ca1890dbfe6426841992d0fb054bb16 ∧
  tableContents invSbox = hexBytes 256 0x52096ad53036a538bf40a39e81f3d7fb7ce339829b2fff87348e4344c4dee9cb547b9432a6c2233dee4c950b42fac34e082ea16628d924b2765ba2496d8bd12572f8f66486689816d4a45ccc5d65b6926c704850fdedb9da5e154657a78d9d8490d8ab008cbcd30af7e45805b8b34506d02c1e8fca3f0f02c1afbd0301138a6b3a9111414f67dcea97f2cfcef0b4e67396ac7422e7ad3585e2f937e81c75df6e47f11a711d29c5896fb7620eaa18be1bfc563e4bc6d279209adbc0fe78cd5af41fdda8338807c731b11210592780ec5f60517fa919b54a0d2de57a9f93c99cefa0e03b4dae2af5b0c8ebbb3c83539961172b047eba77d626e169146355210c7d

/-- R127 to R132: each `GFMUL` command answers its constant times its one-byte payload and changes nothing. -/
def Obligations.MultiplyCommandsMultiplyOneByte : Prop :=
  (∀ (a : Byte) (s : State),
      exec (.gfMul2 [a]) s = .next { s with response := some ⟨.ok, [gfMul 2 a]⟩ } ∧
      exec (.gfMul3 [a]) s = .next { s with response := some ⟨.ok, [gfMul 3 a]⟩ } ∧
      exec (.gfMul9 [a]) s = .next { s with response := some ⟨.ok, [gfMul 9 a]⟩ } ∧
      exec (.gfMul11 [a]) s = .next { s with response := some ⟨.ok, [gfMul 11 a]⟩ } ∧
      exec (.gfMul13 [a]) s = .next { s with response := some ⟨.ok, [gfMul 13 a]⟩ } ∧
      exec (.gfMul14 [a]) s = .next { s with response := some ⟨.ok, [gfMul 14 a]⟩ }) ∧
  (∀ (inp : List Byte) (s : State), inp.length ≠ 1 →
      ∀ i ∈ [Instr.gfMul2 inp, .gfMul3 inp, .gfMul9 inp, .gfMul11 inp, .gfMul13 inp, .gfMul14 inp],
        exec i s = .next { s with response := some ⟨.errPayloadLength, []⟩ }) ∧
  (∀ row ∈ [(mul2, [0x00#8, 0x02#8, 0x1B#8, 0xE5#8, 0xAE#8]), (mul3, [0x00#8, 0x03#8, 0x9B#8, 0x1A#8, 0xF9#8]),
            (mul9, [0x00#8, 0x09#8, 0xEC#8, 0x46#8, 0xD9#8]), (mul11, [0x00#8, 0x0B#8, 0xF7#8, 0xA3#8, 0x77#8]),
            (mul13, [0x00#8, 0x0D#8, 0xDA#8, 0x97#8, 0x9E#8]), (mul14, [0x00#8, 0x0E#8, 0x41#8, 0x8D#8, 0x67#8])],
      [0x00#8, 0x01#8, 0x80#8, 0xFF#8, 0x57#8].map row.1 = row.2)

/-! ## The round primitives -/

/-- A command answers `ERR_PAYLOAD_LENGTH` to its payload in every state, and changes nothing (R272). -/
def rejectsLength (i : Instr) : Prop := ∀ s : State, exec i s = .next { s with response := some ⟨.errPayloadLength, []⟩ }

/-- R160 to R163: `SUBBYTES` and `INVSUBBYTES` substitute each byte in its place and change nothing. -/
def Obligations.SubBytesCommandsSubstituteEachByte : Prop :=
  (∀ (inp : List Byte) (s : State), inp.length = 16 →
      exec (.subBytes inp) s = .next { s with response := some ⟨.ok, inp.map sbox⟩ } ∧
      exec (.invSubBytes inp) s = .next { s with response := some ⟨.ok, inp.map invSbox⟩ }) ∧
  (∀ inp : List Byte, inp.length ≠ 16 → rejectsLength (.subBytes inp) ∧ rejectsLength (.invSubBytes inp)) ∧
  (∀ a : Byte, sbox a ≠ a) ∧
  (subBytes Block.zero).bytes = List.replicate 16 0x63#8 ∧ (invSubBytes Block.zero).bytes = List.replicate 16 0x52#8 ∧
  invSubBytes (payloadBlock (List.replicate 16 0x63#8) 0) = Block.zero ∧
  (invSubBytes (payloadBlock (hexBytes 16 0x63cab7040953d051cd60e0e7ba70e18c) 0)).bytes =
    hexBytes 16 0x00102030405060708090a0b0c0d0e0f0 ∧
  (subBytes (payloadBlock (hexBytes 16 0x00102030405060708090a0b0c0d0e0f0) 0)).bytes =
    hexBytes 16 0x63cab7040953d051cd60e0e7ba70e18c

/-- R164 to R167: on byte indices, `SHIFTROWS` takes `b[4*((c + r) mod 4) + r]` to place `4*c + r` and `INVSHIFTROWS`
takes `b[4*((c - r) mod 4) + r]` there; the permutations `P` and `Q`; nothing else changes. -/
def Obligations.ShiftRowsCommandsRotateEachRow : Prop :=
  (∀ (inp : List Byte) (s : State), inp.length = 16 →
      ∃ fwd bwd : List Byte,
        exec (.shiftRows inp) s = .next { s with response := some ⟨.ok, fwd⟩ } ∧
        exec (.invShiftRows inp) s = .next { s with response := some ⟨.ok, bwd⟩ } ∧
        fwd.length = 16 ∧ bwd.length = 16 ∧
        (∀ r c : Nat, r < 4 → c < 4 →
          payloadByte fwd (4 * c + r) = payloadByte inp (4 * ((c + r) % 4) + r) ∧
          payloadByte bwd (4 * c + r) = payloadByte inp (4 * ((c + 4 - r) % 4) + r)) ∧
        fwd = [0, 5, 10, 15, 4, 9, 14, 3, 8, 13, 2, 7, 12, 1, 6, 11].map (payloadByte inp) ∧
        bwd = [0, 13, 10, 7, 4, 1, 14, 11, 8, 5, 2, 15, 12, 9, 6, 3].map (payloadByte inp)) ∧
  (∀ inp : List Byte, inp.length ≠ 16 → rejectsLength (.shiftRows inp) ∧ rejectsLength (.invShiftRows inp)) ∧
  (∀ b : Block, shiftRows (shiftRows (shiftRows (shiftRows b))) = b)

/-- R168, R169: `TRANSPOSE` takes `b[4*c + r]` to place `4*r + c` and changes nothing. -/
def Obligations.TransposeCommandExchangesRowsAndColumns : Prop :=
  (∀ (inp : List Byte) (s : State), inp.length = 16 →
    ∃ out : List Byte,
      exec (.transpose inp) s = .next { s with response := some ⟨.ok, out⟩ } ∧ out.length = 16 ∧
      (∀ r c : Nat, r < 4 → c < 4 → payloadByte out (4 * r + c) = payloadByte inp (4 * c + r)) ∧
      (∀ k : Nat, k < 16 → payloadByte out k = payloadByte inp (4 * (k % 4) + k / 4)) ∧
      out = [0, 4, 8, 12, 1, 5, 9, 13, 2, 6, 10, 14, 3, 7, 11, 15].map (payloadByte inp)) ∧
  (∀ inp : List Byte, inp.length ≠ 16 → rejectsLength (.transpose inp))

/-- The matrix of MixColumns as R171 writes it. -/
def mixMatrix : List (List Byte) := [[2, 3, 1, 1], [1, 2, 3, 1], [1, 1, 2, 3], [3, 1, 1, 2]]

/-- The matrix of InvMixColumns as R173 writes it. -/
def invMixMatrix : List (List Byte) := [[14, 11, 13, 9], [9, 14, 11, 13], [13, 9, 14, 11], [11, 13, 9, 14]]

/-- Entry `i` of a matrix times the column vector `a`, in GF(2^8). -/
def matrixTimes (m : List (List Byte)) (a : List Byte) (i : Nat) : Byte :=
  (List.range 4).foldl (fun acc j => acc ^^^ gfMul ((m.getD i []).getD j 0) (a.getD j 0)) 0#8

/-- R171 to R174: `MIXCOLUMNS` and `INVMIXCOLUMNS` multiply each column by their matrix from the left, and change
nothing. -/
def Obligations.MixColumnsCommandsMultiplyByTheirMatrix : Prop :=
  (∀ (inp : List Byte) (s : State), inp.length = 16 →
      ∃ fwd bwd : List Byte,
        exec (.mixColumns inp) s = .next { s with response := some ⟨.ok, fwd⟩ } ∧
        exec (.invMixColumns inp) s = .next { s with response := some ⟨.ok, bwd⟩ } ∧
        fwd.length = 16 ∧ bwd.length = 16 ∧
        ∀ c i : Nat, c < 4 → i < 4 →
          payloadByte fwd (4 * c + i) = matrixTimes mixMatrix ((inp.drop (4 * c)).take 4) i ∧
          payloadByte bwd (4 * c + i) = matrixTimes invMixMatrix ((inp.drop (4 * c)).take 4) i) ∧
  (∀ inp : List Byte, inp.length ≠ 16 → rejectsLength (.mixColumns inp) ∧ rejectsLength (.invMixColumns inp)) ∧
  (mixColumns (payloadBlock (hexBytes 16 0x6353e08c0960e104cd70b751bacad0e7) 0)).bytes =
    hexBytes 16 0x5f72641557f5bc92f7be3b291db9f91a

/-- R175, R176: `ADDROUNDKEY` XORs payload byte `i` with payload byte `16 + i`, never with the schedule store, and changes
nothing. -/
def Obligations.AddRoundKeyCommandXorsThePayloadKey : Prop :=
  (∀ (inp : List Byte) (s : State), inp.length = 32 →
      ∃ out : List Byte,
        exec (.addRoundKey inp) s = .next { s with response := some ⟨.ok, out⟩ } ∧ out.length = 16 ∧
        ∀ i : Nat, i < 16 → payloadByte out i = payloadByte inp i ^^^ payloadByte inp (16 + i)) ∧
  (∀ inp : List Byte, inp.length ≠ 32 → rejectsLength (.addRoundKey inp)) ∧
  (∀ b k : Block, addRoundKey b Block.zero = b ∧ addRoundKey b b = Block.zero ∧ addRoundKey b k = addRoundKey k b)

/-- R177: the involution properties, for every block and round key, and in the other order. -/
def Obligations.PrimitivesHaveExactInverses : Prop :=
  ∀ b k : Block,
    invSubBytes (subBytes b) = b ∧ subBytes (invSubBytes b) = b ∧
    transpose (transpose b) = b ∧
    invShiftRows (shiftRows b) = b ∧ shiftRows (invShiftRows b) = b ∧
    invMixColumns (mixColumns b) = b ∧ mixColumns (invMixColumns b) = b ∧
    addRoundKey (addRoundKey b k) k = b

/-- R178: the products of the two matrices, both ways, are the identity. -/
def Obligations.MixMatricesAreInverse : Prop :=
  ∀ i j : Fin 4,
    matrixTimes invMixMatrix (mixMatrix.map fun row => row.getD j.val 0) i.val = (if i = j then 0x01#8 else 0x00#8) ∧
    matrixTimes mixMatrix (invMixMatrix.map fun row => row.getD j.val 0) i.val = (if i = j then 0x01#8 else 0x00#8)

/-- R170, R179: the equivalent formulation of ShiftRows; substitution commutes with the row shifts; five primitives are
linear over XOR and the substitutions are not. -/
def Obligations.PrimitivesCommuteAndAreLinear : Prop :=
  (∀ b : Block, shiftRows b = transpose (rotRowsL (transpose b)) ∧
      invShiftRows b = transpose (rotRowsR (transpose b))) ∧
  (∀ b : Block, subBytes (shiftRows b) = shiftRows (subBytes b) ∧
      invSubBytes (invShiftRows b) = invShiftRows (invSubBytes b)) ∧
  (∀ f ∈ [shiftRows, invShiftRows, transpose, mixColumns, invMixColumns],
      ∀ a b : Block, f (a.xor b) = (f a).xor (f b)) ∧
  (∃ a b : Block, subBytes (a.xor b) ≠ (subBytes a).xor (subBytes b)) ∧
  (∃ a b : Block, invSubBytes (a.xor b) ≠ (invSubBytes a).xor (invSubBytes b))

/-! ## The key schedule -/

/-- R143, R144: for a key of `n` words, `n` being 4, 6 or 8, `KeyExpansion` gives `4*(n+7)` words; the first `n` are the
key; and each later word satisfies the recurrence, read by index in the finished list. -/
def Obligations.KeyExpansionSatisfiesTheRecurrence : Prop :=
  ∀ (n : Nat) (key : List Byte), n ∈ [4, 6, 8] → key.length = 4 * n →
    (keyExpansion key).length = 4 * (n + 7) ∧
    (∀ i : Nat, i < n → (keyExpansion key).getD i Word.zero =
      ⟨payloadByte key (4 * i), payloadByte key (4 * i + 1), payloadByte key (4 * i + 2), payloadByte key (4 * i + 3)⟩) ∧
    (∀ c : Nat, n ≤ c → c < 4 * (n + 7) →
      (keyExpansion key).getD c Word.zero =
        ((keyExpansion key).getD (c - n) Word.zero).xor
          (if c % n = 0 then
            (subWord (rotWord ((keyExpansion key).getD (c - 1) Word.zero))).xor (rconWord (c / n))
          else if n > 6 ∧ c % n = 4 then subWord ((keyExpansion key).getD (c - 1) Word.zero)
          else (keyExpansion key).getD (c - 1) Word.zero))

/-- R141, R142, R145, R146: the three word functions, the round constants at the indices 1 to 10, and the layout of a
round key: byte `4j + i` of round key `r` is byte `i` of word `4r + j`, for every word the schedule has. -/
def Obligations.WordFunctionsAndRoundKeysAreByteWise : Prop :=
  (∀ a0 a1 a2 a3 : Byte, rotWord ⟨a0, a1, a2, a3⟩ = ⟨a1, a2, a3, a0⟩ ∧
      subWord ⟨a0, a1, a2, a3⟩ = ⟨sbox a0, sbox a1, sbox a2, sbox a3⟩) ∧
  (∀ i : Nat, 1 ≤ i → i ≤ 10 → rconWord i = ⟨rcon i, 0x00#8, 0x00#8, 0x00#8⟩) ∧
  rotWord ⟨0x09#8, 0xCF#8, 0x4F#8, 0x3C#8⟩ = ⟨0xCF#8, 0x4F#8, 0x3C#8, 0x09#8⟩ ∧
  subWord ⟨0xCF#8, 0x4F#8, 0x3C#8, 0x09#8⟩ = ⟨0x8A#8, 0x84#8, 0xEB#8, 0x01#8⟩ ∧
  subWord Word.zero = ⟨0x63#8, 0x63#8, 0x63#8, 0x63#8⟩ ∧
  rconWord 9 = ⟨0x1B#8, 0x00#8, 0x00#8, 0x00#8⟩ ∧
  (∀ (w : List Word) (r i j : Nat), i < 4 → j < 4 → 4 * r + j < w.length →
      payloadByte (roundKey w r).bytes (4 * j + i) = payloadByte (w.getD (4 * r + j) Word.zero).bytes i) ∧
  (roundKey (keyExpansion (hexBytes 16 0)) 1).bytes = hexBytes 16 0x62636363626363636263636362636363

/-- R148: `KEYEXPAND` checks mode and key length, and otherwise answers the words of the expansion of its payload in
order, the first of them the payload itself; it reads and writes no engine state. -/
def Obligations.KeyExpandAnswersTheSchedule : Prop :=
  (∀ (inp : List Byte) (s : State), exec (.keyExpand 3#2 inp) s = .next { s with response := some ⟨.errBadMode, []⟩ }) ∧
  (∀ (ks : BitVec 2) (inp : List Byte) (s : State), ks ≠ 3#2 → inp.length ≠ 16 + 8 * ks.toNat →
      exec (.keyExpand ks inp) s = .next { s with response := some ⟨.errKeyLength, []⟩ }) ∧
  (∀ (ks : BitVec 2) (inp : List Byte) (s : State), ks ≠ 3#2 → inp.length = 16 + 8 * ks.toNat →
      ∃ out : List Byte,
        exec (.keyExpand ks inp) s = .next { s with response := some ⟨.ok, out⟩ } ∧
        out = (keyExpansion inp).flatMap Word.bytes ∧
        out = (List.range (11 + 2 * ks.toNat)).flatMap (fun r => (roundKey (keyExpansion inp) r).bytes) ∧
        out.length = 16 * (11 + 2 * ks.toNat) ∧ out.take (16 + 8 * ks.toNat) = inp) ∧
  (∀ s : State, ∃ out : List Byte,
      exec (.keyExpand 0#2 (hexBytes 16 0)) s = .next { s with response := some ⟨.ok, out⟩ } ∧
      out.take 32 = hexBytes 32 0x62636363626363636263636362636363 ∧
      out.drop 160 = hexBytes 16 0xb4ef5bcb3e92e21123e951cf6f8f188e)

/-! ## The block cipher -/

/-- R190, R191: `Cipher` and `InvCipher` as sequences of working blocks, one round key per round, ascending and
descending. -/
def Obligations.BlockFunctionsRunTheirRounds : Prop :=
  (∀ (b : Block) (w : List Word) (nr : Nat), 1 ≤ nr →
      ∃ S : Nat → Block,
        S 0 = addRoundKey b (roundKey w 0) ∧
        (∀ r, 1 ≤ r → r ≤ nr - 1 → S r = addRoundKey (mixColumns (shiftRows (subBytes (S (r - 1))))) (roundKey w r)) ∧
        cipher b w nr = addRoundKey (shiftRows (subBytes (S (nr - 1)))) (roundKey w nr)) ∧
  (∀ (b : Block) (w : List Word) (nr : Nat), 1 ≤ nr →
      ∃ S : Nat → Block,
        S nr = invSubBytes (invShiftRows (addRoundKey b (roundKey w nr))) ∧
        (∀ r, 1 ≤ r → r ≤ nr - 1 →
          S r = invSubBytes (invShiftRows (invMixColumns (addRoundKey (S (r + 1)) (roundKey w r))))) ∧
        invCipher b w nr = addRoundKey (S 1) (roundKey w 0))

/-- R192: `InvCipher` undoes `Cipher` and `Cipher` undoes `InvCipher`, for every block, schedule and number of rounds. -/
def Obligations.CipherAndInvCipherAreInverse : Prop :=
  ∀ (b : Block) (w : List Word) (nr : Nat),
    invCipher (cipher b w nr) w nr = b ∧ cipher (invCipher b w nr) w nr = b

/-- R193: the document's known answer, by the commands `INIT` and `ENC` from reset, and back by `DEC`. -/
def Obligations.KnownAnswerFromTheDocument : Prop :=
  cipher Block.zero (keyExpansion (hexBytes 16 0)) 10 =
    payloadBlock (hexBytes 16 0x66e94bd4ef8a2c3b884cfa59ca342b2e) 0 ∧
  (runCommands [.init .ecb 0#2 (hexBytes 16 0), .enc (hexBytes 16 0),
      .dec (hexBytes 16 0x66e94bd4ef8a2c3b884cfa59ca342b2e)] State.reset).map (fun q => outputs q.1) =
    some [[], hexBytes 16 0x66e94bd4ef8a2c3b884cfa59ca342b2e, hexBytes 16 0]

/-- R201: in ECB `ENC` and `DEC` write nothing but the response, and `DEC` of an output of `ENC` returns the input on any
engine of the same schedule and mode. -/
def Obligations.EcbIsStatelessAndInvertible : Prop :=
  ∀ (b : Block) (s u : State), s.ready = true → s.ks ≠ 3#2 → s.ch = .ecb →
    u.ready = true → u.ks = s.ks → u.ch = .ecb → u.w = s.w →
    ∃ c : Block,
      exec (.enc b.bytes) s = .next { s with response := some ⟨.ok, c.bytes⟩ } ∧
      exec (.dec c.bytes) u = .next { u with response := some ⟨.ok, b.bytes⟩ }

/-! ## CBC -/

/-- R223: in CBC, `CV` is the ciphertext block that crossed the interface last, over any sequence of commands without a
`ZEROIZE`; after the constructing `INIT` it is zero. -/
def Obligations.ChainingValueIsTheLastCiphertext : Prop :=
  (∀ (is : List Instr) (s t : State) (xs : List Exchange),
      s.ready = true → s.ch = .cbc → (∀ i ∈ is, ∀ p, i ≠ .zeroize p) → runCommands is s = some (xs, t) →
      t.ready = true ∧ t.ch = .cbc ∧ t.cv = xs.foldl lastCiphertext s.cv) ∧
  (∀ (ks : BitVec 2) (key : List Byte) (s t : State), s.ready = false → exec (.init .cbc ks key) s = .next t →
      t.response = some ⟨.ok, []⟩ → t.FreshCbc)

/-- R224: encryption in closed form, for every sequence of plaintext blocks on a fresh CBC engine. -/
def Obligations.CbcEncryptionInClosedForm : Prop :=
  ∀ (ps : List Block) (s : State), s.FreshCbc →
    ∃ cs : List Block, ciphertexts ps s = some cs ∧ cs.length = ps.length ∧
      ∀ i : Nat, i < ps.length →
        cs.getD i Block.zero =
          (s.encipher (ps.getD i Block.zero)).xor (if i = 0 then Block.zero else cs.getD (i - 1) Block.zero) ∧
        cs.getD i Block.zero = xorAll ((ps.take (i + 1)).map s.encipher)

/-- R225: decryption in closed form on a fresh CBC engine: each plaintext block depends on two ciphertext blocks only. -/
def Obligations.CbcDecryptionInClosedForm : Prop :=
  ∀ (cs : List Block) (s : State), s.FreshCbc →
    ∃ (xs : List Exchange) (t : State), runCommands (cs.map fun c => .dec c.bytes) s = some (xs, t) ∧
      xs.length = cs.length ∧
      ∀ i : Nat, i < cs.length →
        (outputs xs).getD i [] =
          (s.decipher ((cs.getD i Block.zero).xor (if i = 0 then Block.zero else cs.getD (i - 1) Block.zero))).bytes

/-- R226: what one engine encrypts in CBC, another constructed with the same key size and key decrypts. -/
def Obligations.CbcRoundTrip : Prop :=
  ∀ (ks : BitVec 2) (key : List Byte) (ps : List Block) (s u : State),
    ks ≠ 3#2 → key.length = 16 + 8 * ks.toNat → s.ready = false → u.ready = false →
    ∃ (xs ys : List Exchange) (s' u' : State),
      runCommands (.init .cbc ks key :: ps.map fun p => .enc p.bytes) s = some (xs, s') ∧
      runCommands (.init .cbc ks key :: (outputs xs).tail.map .dec) u = some (ys, u') ∧
      (outputs ys).tail = ps.map Block.bytes

/-- R228: the five consequences of the closed form, on a fresh CBC engine. -/
def Obligations.CbcConsequences : Prop :=
  ∀ (s : State), s.FreshCbc → ∀ (ps qs cs ds : List Block), ciphertexts ps s = some cs → ciphertexts qs s = some ds →
    (∀ i : Nat, 1 ≤ i → i < ps.length →
      (cs.getD i Block.zero).xor (cs.getD (i - 1) Block.zero) = s.encipher (ps.getD i Block.zero)) ∧
    (∀ i : Nat, 1 ≤ i → i < ps.length → ps.getD i Block.zero = ps.getD (i - 1) Block.zero →
      (i = 1 ∨ cs.getD (i - 2) Block.zero = Block.zero) → cs.getD i Block.zero = Block.zero) ∧
    (∀ i : Nat, i < ps.length → i < qs.length → (ps.take (i + 1)).Perm (qs.take (i + 1)) →
      cs.getD i Block.zero = ds.getD i Block.zero) ∧
    (∀ k : Nat, ps.take k = qs.take k → cs.take k = ds.take k) ∧
    (∀ k : Nat, ps.length = qs.length → k < ps.length → ps.getD k Block.zero ≠ qs.getD k Block.zero →
      (∀ j : Nat, j ≠ k → ps.getD j Block.zero = qs.getD j Block.zero) →
      ∀ j : Nat, k ≤ j → j < ps.length → cs.getD j Block.zero ≠ ds.getD j Block.zero) ∧
    (∀ a b c : Block, ps = [a, b, c] → qs = [a, c, b] → b ≠ c →
      cs.getD 0 Block.zero = ds.getD 0 Block.zero ∧ cs.getD 1 Block.zero ≠ ds.getD 1 Block.zero ∧
        cs.getD 2 Block.zero = ds.getD 2 Block.zero)

/-- R311: one chaining register serves both directions: after `ENC` has output `c`, `DEC` of `c` on the same CBC engine
answers `InvCipher` of the zero block. -/
def Obligations.OneChainServesBothDirections : Prop :=
  ∀ (p : Block) (s : State), s.ready = true → s.ks ≠ 3#2 → s.ch = .cbc →
    ∃ (c : Block) (t u : State), exec (.enc p.bytes) s = .next t ∧ t.response = some ⟨.ok, c.bytes⟩ ∧ t.cv = c ∧
      exec (.dec c.bytes) t = .next u ∧ u.response = some ⟨.ok, (s.decipher Block.zero).bytes⟩ ∧ u.cv = c

/-! ## The whole machine -/

/-- R26, R27, R38: the invariant holds at reset. -/
def Obligations.ResetSatisfiesTheInvariant : Prop := State.reset.Inv

/-- R26, R27: every step keeps the invariant: an unconstructed engine is all zero, a constructed one holds the expansion
of its key under a legal mode. -/
def Obligations.EveryStepKeepsTheInvariant : Prop := ∀ s t : State, s.Inv → step s = .next t → t.Inv

/-- R63, R276: in every state of the invariant a step goes on, whatever the host sends. -/
def Obligations.NoStepStopsUnderTheInvariant : Prop := ∀ s : State, s.Inv → ∃ t, step s = .next t

/-- R86, R303: every well-formed command completes with `OK`, `ENC` and `DEC` on a constructed engine of a legal mode
and `INIT` on an unconstructed one. -/
def Obligations.WellFormedCommandsComplete : Prop :=
  ∀ (i : Instr) (s : State), i.wellFormed = true →
    (isBlockOperation i = true → s.ready = true ∧ s.ks ≠ 3#2) → (∀ ch ks p, i = .init ch ks p → s.ready = false) →
    ∃ (t : State) (out : List Byte), exec i s = .next t ∧ t.response = some ⟨.ok, out⟩ ∧ out.length = outputLength i

/-- R276: a command that reports an error has an empty output payload and writes no state element, an undefined byte
included. That a command waits in an event queue and is taken from it is the model's choice (notes/assumptions/1.md). -/
def Obligations.ErrorsWriteNoState : Prop :=
  (∀ (i : Instr) (s t : State), exec i s = .next t →
    ∃ r : Response, t.response = some r ∧
      (r.status ≠ .ok → r.out = [] ∧ t = { s with response := some ⟨r.status, []⟩ })) ∧
  (∀ (s : State) (cmd : Byte) (inp : List Byte) (es : List HostEvent) (e : DecodeError),
    s.pending = .command cmd inp :: es → decode cmd inp = .error e →
    step s = .next { s with pending := es, response := some ⟨.errIllegalCommand, []⟩ })

/-- R280, R282: a command reports the first error that applies, in the order mode, length, engine state; an undefined byte
is reported before any of these. That a command waits in an event queue is the model's choice
(notes/assumptions/1.md). -/
def Obligations.ErrorsAreReportedByPriority : Prop :=
  (∀ (i : Instr) (s t : State) (r : Response), exec i s = .next t → t.response = some r →
      r.status = expectedStatus i s) ∧
  (∀ (s t : State) (cmd : Byte) (inp : List Byte) (es : List HostEvent), s.pending = .command cmd inp :: es →
      step s = .next t → ((∃ out, t.response = some ⟨.errIllegalCommand, out⟩) ↔ ∃ e, decode cmd inp = .error e)) ∧
  (∀ (s : State) (p : List Byte), s.ready = true → p.length = 5 → expectedStatus (.init .ecb 3#2 p) s = .errBadMode) ∧
  (∀ (s : State) (p : List Byte), s.ready = true → p.length = 15 → expectedStatus (.init .ecb 0#2 p) s = .errKeyLength) ∧
  (∀ (s : State) (p : List Byte), s.ready = false → p.length = 15 → expectedStatus (.enc p) s = .errPayloadLength)

/-- R92, R271: status bytes are `0x00` to `0x06`, one for each status; an `OK` response has the output length of the
opcode map and an error response is empty and leaves the state elements as they were. -/
def Obligations.ResponsesHaveTheirFormat : Prop :=
  (Status.code .ok = 0x00#8 ∧ Status.code .errBadMode = 0x01#8 ∧ Status.code .errKeyLength = 0x02#8 ∧
    Status.code .errNotReady = 0x03#8 ∧ Status.code .errAlreadyConstructed = 0x04#8 ∧
    Status.code .errIllegalCommand = 0x05#8 ∧ Status.code .errPayloadLength = 0x06#8) ∧
  (∀ st : Status, st.code.toNat ≤ 6) ∧
  (∀ (i : Instr) (s t : State) (r : Response), exec i s = .next t → t.response = some r →
      (r.status = .ok → r.out.length = outputLength i) ∧ (r.status ≠ .ok → r.out = [] ∧ s.SameEngine t))

/-- R88: the response of a pure command is a function of the command and its payload alone, and it writes nothing. -/
def Obligations.PureCommandsIgnoreTheEngine : Prop :=
  ∀ i : Instr, i.isPure = true → ∃ r : Response, ∀ s : State, exec i s = .next { s with response := some r }

/-- R37: `KEY`, `W` and `CV` reach no response but the output block of `ENC` and `DEC`: two engines of the same `READY` and
`MODE` answer every other command alike, and `ENC` and `DEC` with the same status. -/
def Obligations.SecretsReachOnlyTheBlockOutputs : Prop :=
  ∀ (i : Instr) (s u s' u' : State), s.SamePublic u → exec i s = .next s' → exec i u = .next u' →
    (isBlockOperation i = false → s'.response = u'.response) ∧
    s'.response.map Response.status = u'.response.map Response.status ∧ s'.SamePublic u'

/-- R21, R24, R150: while an engine is constructed no step changes its mode, key or schedule. -/
def Obligations.ModeKeyAndScheduleAreImmutable : Prop :=
  ∀ s t : State, s.ready = true → step s = .next t → t.ready = true →
    t.ks = s.ks ∧ t.ch = s.ch ∧ t.key = s.key ∧ t.w = s.w

/-- R22: `READY` is set by nothing but an `INIT` that answers `OK`, and cleared by nothing but a `ZEROIZE` that answers
`OK` and a reset. The event queue is the model's (notes/assumptions/1.md). -/
def Obligations.ReadyChangesOnlyByInitZeroizeAndReset : Prop :=
  ∀ s t : State, step s = .next t →
    (s.ready = false → t.ready = true →
      ∃ cmd inp es ch ks, s.pending = .command cmd inp :: es ∧ decode cmd inp = .ok (.init ch ks inp) ∧
        t.response = some ⟨.ok, []⟩) ∧
    (s.ready = true → t.ready = false →
      (∃ cmd es, s.pending = .command cmd [] :: es ∧ decode cmd [] = .ok (.zeroize []) ∧
        t.response = some ⟨.ok, []⟩) ∨
      (∃ es, s.pending = .reset :: es) ∨ ∃ cmd inp es, s.pending = .resetDuring cmd inp :: es)

/-- R305: the lifecycle of an engine, row by row. -/
def Obligations.LifecycleOfAnEngine : Prop :=
  ∀ (i : Instr) (s t : State) (r : Response), s.Inv → exec i s = .next t → t.response = some r →
    (s.ready = false → ∀ ch ks p, i = .init ch ks p → r.status = .ok →
      t.ready = true ∧ t.ks = ks ∧ t.ch = ch ∧ t.cv = Block.zero) ∧
    (s.ready = false → ((∀ ch ks p, i ≠ .init ch ks p) ∨ r.status ≠ .ok) → s.SameEngine t) ∧
    (s.ready = true → isBlockOperation i = true → r.status = .ok →
      t.ready = true ∧ t.ks = s.ks ∧ t.ch = s.ch ∧ t.key = s.key ∧ t.w = s.w ∧ (s.ch = .ecb → t.cv = s.cv)) ∧
    (s.ready = true → ∀ p, i = .zeroize p → r.status = .ok → t.SameEngine State.reset) ∧
    (s.ready = true → isBlockOperation i = false → (∀ p, i ≠ .zeroize p) → s.SameEngine t) ∧
    (s.ready = true → r.status ≠ .ok → s.SameEngine t)

/-- R58: every command but a successful `INIT`, and `ENC` and `DEC` in CBC, repeated in the state it left, gives the same
response and leaves the same state. -/
def Obligations.OtherCommandsAreIdempotent : Prop :=
  ∀ (i : Instr) (s t : State), (isBlockOperation i = true → s.ch = .ecb) →
    (∀ ch ks p, i = .init ch ks p → t.response ≠ some ⟨.ok, []⟩) → exec i s = .next t → exec i t = .next t

/-- R41, R293: a step of one engine instance is that engine's own step and touches no other instance; every platform has
at least one instance, and all start at reset. That an instance is named by its position, and that an event for
an absent one reaches no instance, is the model's choice (notes/assumptions/11.md). -/
def Obligations.InstancesAreIndependent : Prop :=
  (∀ (p q : Platform) (k : Nat), Platform.step p k = .next q →
      (∃ s t, p[k]? = some s ∧ step s = .next t ∧ q[k]? = some t) ∧ ∀ j, j ≠ k → q[j]? = p[j]?) ∧
  (∀ (p : Platform) (k : Nat) (e : HostEvent) (j : Nat), j ≠ k → (Platform.send p k e)[j]? = p[j]?) ∧
  1 ≤ Platform.reset.length ∧ ∀ s ∈ Platform.reset, s = State.reset

/-! ## The host's procedures -/

/-- R241, R247: the padded last block, and the bytes of the last block that are emitted, by its last byte. -/
def Obligations.PaddingIsAddedAndRemovedByTheLastByte : Prop :=
  (∀ chunk : List Byte, chunk.length < 16 →
      (padChunk chunk).length = 16 ∧ (padChunk chunk).take chunk.length = chunk ∧
      ∀ i : Nat, chunk.length ≤ i → i < 16 → ((padChunk chunk).getD i 0#8).toNat = 16 - chunk.length) ∧
  padChunk [] = List.replicate 16 0x10#8 ∧
  (∀ p : List Byte, p.length = 16 →
    (∀ n : Nat, 1 ≤ n → n ≤ 15 → (p.getD 15 0#8).toNat = n → unpad p = p.take (16 - n)) ∧
    (p.getD 15 0#8 = 0x10#8 → unpad p = []) ∧
    (p.getD 15 0#8 = 0x00#8 → unpad p = p) ∧
    ((p.getD 15 0#8).toNat > 16 → unpad p = p))

/-- R242, R243: on a constructed engine `ENCRYPT_STREAM` ends without error, returns and emits `16 * (floor(L/16) + 1)`
bytes, and these are the outputs of one `ENC` per 16 bytes of the padded plaintext, in order; on an unconstructed engine
it ends with `ERR_NOT_READY` and emits nothing. How the host issues a command, and how a procedure ends and reports, is
the model's choice (notes/assumptions/12.md). -/
def Obligations.EncryptStreamIsOneEncPerPaddedBlock : Prop :=
  (∀ (input : List Byte) (s : State), s.ready = true → s.ks ≠ 3#2 →
      ∃ (xs : List Exchange) (t : State),
        runCommands ((List.range (input.length / 16)).map (fun k => .enc ((input.drop (16 * k)).take 16)) ++
            [.enc (padChunk (input.drop (16 * (input.length / 16))))]) s = some (xs, t) ∧
        (encryptStream input s).output = (outputs xs).flatten ∧ (encryptStream input s).engine = t ∧
        (encryptStream input s).ended = .done ∧
        (encryptStream input s).written = 16 * (input.length / 16 + 1) ∧
        (encryptStream input s).output.length = 16 * (input.length / 16 + 1)) ∧
  (∀ (input : List Byte) (s : State), s.ready = false →
      (encryptStream input s).output = [] ∧ (encryptStream input s).ended = .commandFailed .errNotReady)

/-- R248, R249: a ciphertext whose length is no multiple of 16 ends in the framing error; what was emitted before is the
output of one `DEC` for each full block but the last, and that is how far the engine has gone. The empty ciphertext emits
nothing and is no error. How the host issues a command, and how a procedure ends and reports, is the model's choice
(notes/assumptions/12.md). -/
def Obligations.ShortCiphertextIsAFramingError : Prop :=
  (∀ (input : List Byte) (s : State), s.ready = true → s.ks ≠ 3#2 → input.length % 16 ≠ 0 →
      ∃ (xs : List Exchange) (t : State),
        runCommands ((List.range (input.length / 16 - 1)).map fun k => .dec ((input.drop (16 * k)).take 16)) s =
          some (xs, t) ∧
        (decryptStream input s).ended = .hostErr .framing ∧
        (decryptStream input s).output = (outputs xs).flatten ∧ (decryptStream input s).engine = t) ∧
  (∀ s : State, decryptStream [] s = ⟨[], 0, .done, s⟩)

/-- R252: the round trip on streams, for every mode, every key of its size and every plaintext, with a freshly constructed
engine on each side. How the host issues a command, and how its stream procedures end and report, is the model's choice
(notes/assumptions/12.md). -/
def Obligations.StreamRoundTrip : Prop :=
  ∀ (m : CipherMode) (key plain : List Byte) (s0 u0 s u : State),
    key.length = keySize m.size.field → s0.ready = false → u0.ready = false →
    issue (m.new key) s0 = .next s → issue (m.new key) u0 = .next u →
    (encryptStream plain s).ended = .done ∧
    (decryptStream (encryptStream plain s).output u).output = plain ∧
    (decryptStream (encryptStream plain s).output u).ended = .done

/-- R250, R251: a generated key has the mode's key size and constructs an engine; too few bytes from the source are the
entropy error. The source as an argument and how the host issues a command are the model's choices
(notes/assumptions/13.md, 12.md). -/
def Obligations.GeneratedKeysConstructAnEngine : Prop :=
  (∀ (m : CipherMode) (entropy key : List Byte) (s : State), s.ready = false →
      generateKey m.size entropy = .ok key →
      key.length = keySize m.size.field ∧
      ∃ t, issue (m.new key) s = .next t ∧ t.response = some ⟨.ok, []⟩ ∧ t.ready = true ∧ t.ch = m.ch ∧
        t.ks = m.size.field) ∧
  (∀ (size : KeySize) (entropy : List Byte), entropy.length < keySize size.field →
      generateKey size entropy = .error .entropy)

/-- R100, R101: assembling the line of any command gives the command back, and the document's names are aliases. Where
the notation leaves blanks, commas, the bar, a response on the line and letter case open the model chose
(notes/assumptions/14.md). -/
def Obligations.AssemblingALineGivesTheCommand : Prop :=
  (∀ i : Instr, assemble (asmLine i) = some i) ∧
  (∀ bs : List Byte, readHex (hexText bs) = some bs) ∧
  resolveAlias "new" = "INIT" ∧ resolveAlias "encryptBlock" = "ENC" ∧ resolveAlias "decryptBlock" = "DEC"
end

