-- ==== Sys2Proof/Laws/Assembly.lean ====
section
/-! SUPPORT. What the two cuts of an assembler line give: the response after the arrow (30_encoding.md rule R100), and the
bar of an `ADDROUNDKEY` payload. -/

namespace Sys2Proof.Machine

open Sys2Proof

/-- A line without `-` carries no response. -/
theorem beforeArrow_eq_self {text : List Char} (h : '-' ∉ text) : beforeArrow text = text := by
  induction text with
  | nil => rfl
  | cons c rest ih =>
    rw [List.mem_cons, not_or] at h
    rw [beforeArrow, if_neg fun hc => h.1 hc.1.symm, ih h.2]

/-- A response written after a command part without `-` is not part of the command. -/
theorem beforeArrow_append_arrow {text : List Char} (h : '-' ∉ text) (after : List Char) :
    beforeArrow (text ++ '-' :: '>' :: after) = text := by
  induction text with
  | nil => rfl
  | cons c rest ih =>
    rw [List.mem_cons, not_or] at h
    rw [List.cons_append, beforeArrow, if_neg fun hc => h.1 hc.1.symm, ih h.2]

/-- Up to the first bar, and after it. -/
theorem readJoined_bar {block : List Char} (h : '|' ∉ block) (key : List Char) :
    readJoined (block ++ '|' :: key) =
      (match readHex block, readHex key with
       | some b, some k => some (b ++ k)
       | _, _ => none) := by
  have hp : ∀ c ∈ block, decide (c ≠ '|') = true := fun c hc => decide_eq_true fun e => h (e ▸ hc)
  have ht : (block ++ '|' :: key).takeWhile (fun c => c ≠ '|') = block := by
    rw [List.takeWhile_append_of_pos hp]; exact List.append_nil block
  have hd : ((block ++ '|' :: key).dropWhile fun c => c ≠ '|').drop 1 = key := by
    rw [List.dropWhile_append_of_pos hp]; rfl
  cases hb : readHex block <;> cases hk : readHex key <;> simp only [readJoined, ht, hd, hb, hk]

/-- A payload without a bar is one hexadecimal string. -/
theorem readJoined_eq_readHex {text : List Char} (h : '|' ∉ text) : readJoined text = readHex text := by
  have hp : ∀ c ∈ text, decide (c ≠ '|') = true := fun c hc => decide_eq_true fun e => h (e ▸ hc)
  have ht : text.takeWhile (fun c => c ≠ '|') = text := List.takeWhile_eq_self_iff.2 hp
  have hd : text.dropWhile (fun c => c ≠ '|') = [] := List.dropWhile_eq_nil_iff.2 hp
  rw [readJoined, ht, hd]
  cases readHex text <;> simp [readHex]

end Sys2Proof.Machine
end

