-- ==== Sys2Proof/Laws/Bytes.lean ====
section
/-! SUPPORT. The small laws of words and blocks: `XOR`, and the passage between a block and its sixteen payload bytes. -/

namespace Sys2Proof

@[simp] theorem Word.bytes_length (x : Word) : x.bytes.length = 4 := rfl
@[simp] theorem Block.bytes_length (b : Block) : b.bytes.length = 16 := rfl

@[simp] theorem Word.xor_self (x : Word) : x.xor x = Word.zero := by simp [Word.xor, Word.zero]
@[simp] theorem Word.xor_zero (x : Word) : x.xor Word.zero = x := by simp [Word.xor, Word.zero]
@[simp] theorem Word.zero_xor (x : Word) : Word.zero.xor x = x := by simp [Word.xor, Word.zero]
theorem Word.xor_comm (x y : Word) : x.xor y = y.xor x := by simp [Word.xor, BitVec.xor_comm]
theorem Word.xor_assoc (x y z : Word) : (x.xor y).xor z = x.xor (y.xor z) := by simp [Word.xor, BitVec.xor_assoc]

@[simp] theorem Block.xor_self (b : Block) : b.xor b = Block.zero := by simp [Block.xor, Block.zero]
@[simp] theorem Block.xor_zero (b : Block) : b.xor Block.zero = b := by simp [Block.xor, Block.zero]
@[simp] theorem Block.zero_xor (b : Block) : Block.zero.xor b = b := by simp [Block.xor, Block.zero]
theorem Block.xor_comm (b c : Block) : b.xor c = c.xor b := by simp [Block.xor, Word.xor_comm]
theorem Block.xor_assoc (b c d : Block) : (b.xor c).xor d = b.xor (c.xor d) := by simp [Block.xor, Word.xor_assoc]
@[simp] theorem Block.xor_xor_cancel (b c : Block) : (b.xor c).xor c = b := by rw [Block.xor_assoc]; simp

end Sys2Proof

namespace Sys2Proof.Machine

open Sys2Proof

/-- A block written to a payload and read back is the same block (30_encoding.md rule R84). -/
@[simp] theorem payloadBlock_bytes (b : Block) : payloadBlock b.bytes 0 = b := rfl

/-- Sixteen payload bytes read as a block and written out again are the same bytes (R84). -/
theorem bytes_payloadBlock (inp : List Byte) (h : inp.length = 16) : (payloadBlock inp 0).bytes = inp := by
  match inp, h with
  | [_, _, _, _, _, _, _, _, _, _, _, _, _, _, _, _], _ => rfl

/-- Every payload of sixteen bytes is the bytes of one block. -/
theorem exists_block_of_length (inp : List Byte) (h : inp.length = 16) : ∃ b : Block, inp = b.bytes :=
  ⟨payloadBlock inp 0, (bytes_payloadBlock inp h).symm⟩

/-- The bytes of a block determine it. -/
theorem block_bytes_injective {b c : Block} (h : b.bytes = c.bytes) : b = c := by
  rw [← payloadBlock_bytes b, h, payloadBlock_bytes]

/-- `N`, `keySize`, `Nr` and the schedule's length by key size (10_state.md rule R21). -/
theorem mode_parameters (ks : BitVec 2) :
    keySize ks = 16 + 8 * ks.toNat ∧ rounds ks = 10 + 2 * ks.toNat ∧ scheduleWords ks = 44 + 8 * ks.toNat := by
  refine ⟨?_, ?_, ?_⟩ <;> simp only [keySize, rounds, scheduleWords, keyWordCount] <;> omega

end Sys2Proof.Machine
end

