-- ==== Sys2Proof/Laws/State.lean ====
section
/-! SUPPORT. One lemma per field per update of the state, so that no proof unfolds a record update. -/

namespace Sys2Proof.Machine

open Sys2Proof

/-! ## `withResponse` -/

@[simp] theorem State.withResponse_ready (s : State) (r : Option Response) : (s.withResponse r).ready = s.ready := rfl
@[simp] theorem State.withResponse_ks (s : State) (r : Option Response) : (s.withResponse r).ks = s.ks := rfl
@[simp] theorem State.withResponse_ch (s : State) (r : Option Response) : (s.withResponse r).ch = s.ch := rfl
@[simp] theorem State.withResponse_key (s : State) (r : Option Response) : (s.withResponse r).key = s.key := rfl
@[simp] theorem State.withResponse_w (s : State) (r : Option Response) : (s.withResponse r).w = s.w := rfl
@[simp] theorem State.withResponse_cv (s : State) (r : Option Response) : (s.withResponse r).cv = s.cv := rfl
@[simp] theorem State.withResponse_pending (s : State) (r : Option Response) :
    (s.withResponse r).pending = s.pending := rfl
@[simp] theorem State.withResponse_response (s : State) (r : Option Response) : (s.withResponse r).response = r := rfl
@[simp] theorem State.withResponse_withResponse (s : State) (q r : Option Response) :
    (s.withResponse q).withResponse r = s.withResponse r := rfl

/-! ## `withCv` -/

@[simp] theorem State.withCv_ready (s : State) (v : Block) : (s.withCv v).ready = s.ready := rfl
@[simp] theorem State.withCv_ks (s : State) (v : Block) : (s.withCv v).ks = s.ks := rfl
@[simp] theorem State.withCv_ch (s : State) (v : Block) : (s.withCv v).ch = s.ch := rfl
@[simp] theorem State.withCv_key (s : State) (v : Block) : (s.withCv v).key = s.key := rfl
@[simp] theorem State.withCv_w (s : State) (v : Block) : (s.withCv v).w = s.w := rfl
@[simp] theorem State.withCv_cv (s : State) (v : Block) : (s.withCv v).cv = v := rfl
@[simp] theorem State.withCv_pending (s : State) (v : Block) : (s.withCv v).pending = s.pending := rfl
@[simp] theorem State.withCv_response (s : State) (v : Block) : (s.withCv v).response = s.response := rfl

/-! ## `withPending` -/

@[simp] theorem State.withPending_ready (s : State) (es : List HostEvent) : (s.withPending es).ready = s.ready := rfl
@[simp] theorem State.withPending_ks (s : State) (es : List HostEvent) : (s.withPending es).ks = s.ks := rfl
@[simp] theorem State.withPending_ch (s : State) (es : List HostEvent) : (s.withPending es).ch = s.ch := rfl
@[simp] theorem State.withPending_key (s : State) (es : List HostEvent) : (s.withPending es).key = s.key := rfl
@[simp] theorem State.withPending_w (s : State) (es : List HostEvent) : (s.withPending es).w = s.w := rfl
@[simp] theorem State.withPending_cv (s : State) (es : List HostEvent) : (s.withPending es).cv = s.cv := rfl
@[simp] theorem State.withPending_pending (s : State) (es : List HostEvent) : (s.withPending es).pending = es := rfl
@[simp] theorem State.withPending_response (s : State) (es : List HostEvent) :
    (s.withPending es).response = s.response := rfl
@[simp] theorem State.withPending_withPending (s : State) (es fs : List HostEvent) :
    (s.withPending es).withPending fs = s.withPending fs := rfl
@[simp] theorem State.withPending_self (s : State) : s.withPending s.pending = s := rfl

/-! ## `constructed` -/

@[simp] theorem State.constructed_ready (s : State) (ch : Chaining) (ks : BitVec 2) (key : List Byte) (ws : List Word) :
    (s.constructed ch ks key ws).ready = true := rfl
@[simp] theorem State.constructed_ks (s : State) (ch : Chaining) (ks : BitVec 2) (key : List Byte) (ws : List Word) :
    (s.constructed ch ks key ws).ks = ks := rfl
@[simp] theorem State.constructed_ch (s : State) (ch : Chaining) (ks : BitVec 2) (key : List Byte) (ws : List Word) :
    (s.constructed ch ks key ws).ch = ch := rfl
@[simp] theorem State.constructed_cv (s : State) (ch : Chaining) (ks : BitVec 2) (key : List Byte) (ws : List Word) :
    (s.constructed ch ks key ws).cv = Block.zero := rfl
@[simp] theorem State.constructed_pending (s : State) (ch : Chaining) (ks : BitVec 2) (key : List Byte)
    (ws : List Word) : (s.constructed ch ks key ws).pending = s.pending := rfl
@[simp] theorem State.constructed_response (s : State) (ch : Chaining) (ks : BitVec 2) (key : List Byte)
    (ws : List Word) : (s.constructed ch ks key ws).response = s.response := rfl
@[simp] theorem State.constructed_key_getElem (s : State) (ch : Chaining) (ks : BitVec 2) (key : List Byte)
    (ws : List Word) (i : Nat) (h : i < 32) : (s.constructed ch ks key ws).key[i] = key.getD i 0#8 := by
  simp [State.constructed]
@[simp] theorem State.constructed_w_getElem (s : State) (ch : Chaining) (ks : BitVec 2) (key : List Byte)
    (ws : List Word) (c : Nat) (h : c < 60) : (s.constructed ch ks key ws).w[c] = ws.getD c Word.zero := by
  simp [State.constructed]

/-! ## `zeroized` -/

@[simp] theorem State.zeroized_ready (s : State) : s.zeroized.ready = false := rfl
@[simp] theorem State.zeroized_ks (s : State) : s.zeroized.ks = 0#2 := rfl
@[simp] theorem State.zeroized_ch (s : State) : s.zeroized.ch = .ecb := rfl
@[simp] theorem State.zeroized_key (s : State) : s.zeroized.key = Vector.replicate 32 0#8 := rfl
@[simp] theorem State.zeroized_w (s : State) : s.zeroized.w = Vector.replicate 60 Word.zero := rfl
@[simp] theorem State.zeroized_cv (s : State) : s.zeroized.cv = Block.zero := rfl
@[simp] theorem State.zeroized_pending (s : State) : s.zeroized.pending = s.pending := rfl
@[simp] theorem State.zeroized_response (s : State) : s.zeroized.response = s.response := rfl

/-- `ZEROIZE` and reset leave the same engine. -/
theorem State.zeroized_eq_reset (s : State) :
    s.zeroized = { State.reset with pending := s.pending, response := s.response } := rfl

end Sys2Proof.Machine
end

