-- ==== Sys2Proof/Laws/Ops.lean ====
section
/-! SUPPORT. One lemma per shared operation that says once everything it can answer. -/

namespace Sys2Proof.Machine

open Sys2Proof

/-- `respond` goes on and changes only the response. -/
@[simp] theorem respond_eq (out : List Byte) (s : State) :
    respond out s = .next (s.withResponse (some ⟨.ok, out⟩)) := rfl

/-- `raiseErr` goes on, with an empty payload, and changes only the response (60_exceptions.md rule R276). -/
@[simp] theorem raiseErr_eq (code : Status) (s : State) :
    raiseErr code s = .next (s.withResponse (some ⟨code, []⟩)) := rfl

/-- A payload of the required length passes the check. -/
theorem checkLength_pass {n : Nat} {inp : List Byte} (s : State) (k : Result) (h : inp.length = n) :
    checkLength n inp s k = k := by simp [checkLength, h]

/-- A payload of another length is `ERR_PAYLOAD_LENGTH` (R272). -/
theorem checkLength_fail {n : Nat} {inp : List Byte} (s : State) (k : Result) (h : inp.length ≠ n) :
    checkLength n inp s k = .next (s.withResponse (some ⟨.errPayloadLength, []⟩)) := by simp [checkLength, h]

/-- What the length check answers. -/
theorem checkLength_cases (n : Nat) (inp : List Byte) (s : State) (k : Result) :
    (inp.length = n ∧ checkLength n inp s k = k) ∨
      (inp.length ≠ n ∧ checkLength n inp s k = .next (s.withResponse (some ⟨.errPayloadLength, []⟩))) := by
  by_cases h : inp.length = n
  · exact .inl ⟨h, checkLength_pass s k h⟩
  · exact .inr ⟨h, checkLength_fail s k h⟩

/-- What the checks of a command that takes a key answer (R273, R275, R280). -/
theorem checkKey_cases (ks : BitVec 2) (inp : List Byte) (s : State) (k : Result) :
    (ks = 3#2 ∧ checkKey ks inp s k = .next (s.withResponse (some ⟨.errBadMode, []⟩))) ∨
      (ks ≠ 3#2 ∧ inp.length ≠ 16 + 8 * ks.toNat ∧
        checkKey ks inp s k = .next (s.withResponse (some ⟨.errKeyLength, []⟩))) ∨
      (ks ≠ 3#2 ∧ inp.length = 16 + 8 * ks.toNat ∧ checkKey ks inp s k = k) := by
  have hn : 4 * keyWordCount ks = 16 + 8 * ks.toNat := by simp only [keyWordCount]; omega
  by_cases h3 : ks = 3#2
  · exact .inl ⟨h3, by simp [checkKey, h3]⟩
  · by_cases hl : inp.length = 16 + 8 * ks.toNat
    · exact .inr (.inr ⟨h3, hl, by simp [checkKey, h3, hn, hl]⟩)
    · exact .inr (.inl ⟨h3, hl, by simp [checkKey, h3, hn, hl]⟩)

/-- What a pure command of fixed length answers (30_encoding.md rule R88). -/
theorem pureCommand_cases (n : Nat) (f : List Byte → List Byte) (inp : List Byte) (s : State) :
    (inp.length = n ∧ pureCommand n f inp s = .next (s.withResponse (some ⟨.ok, f inp⟩))) ∨
      (inp.length ≠ n ∧ pureCommand n f inp s = .next (s.withResponse (some ⟨.errPayloadLength, []⟩))) :=
  checkLength_cases n inp s _

/-- A block primitive on a block of sixteen bytes. -/
theorem blockCommand_bytes (f : Block → Block) (b : Block) (s : State) :
    blockCommand f b.bytes s = .next (s.withResponse (some ⟨.ok, (f b).bytes⟩)) := rfl

/-- A unit lookup on one byte. -/
theorem unitCommand_byte (f : Byte → Byte) (a : Byte) (s : State) :
    unitCommand f [a] s = .next (s.withResponse (some ⟨.ok, [f a]⟩)) := rfl

/-- The schedule of a legal mode lies inside `W` and that of `ks = 3` does not (20_memory.md rule R54). -/
theorem scheduleWords_inside_iff (ks : BitVec 2) : 60 < scheduleWords ks ↔ ks = 3#2 := by
  revert ks; decide

/-- What the checks of a block command on the engine answer (43_block_cipher_engine.md rules R197, R198; R54). -/
theorem checkBlock_cases (inp : List Byte) (s : State) (k : Result) :
    (inp.length ≠ 16 ∧ checkBlock inp s k = .next (s.withResponse (some ⟨.errPayloadLength, []⟩))) ∨
      (inp.length = 16 ∧ s.ready = false ∧
        checkBlock inp s k = .next (s.withResponse (some ⟨.errNotReady, []⟩))) ∨
      (inp.length = 16 ∧ s.ready = true ∧ s.ks = 3#2 ∧ checkBlock inp s k = .fault .scheduleIndex) ∨
      (inp.length = 16 ∧ s.ready = true ∧ s.ks ≠ 3#2 ∧ checkBlock inp s k = k) := by
  by_cases hl : inp.length = 16
  · cases hr : s.ready
    · exact .inr (.inl ⟨hl, rfl, by simp [checkBlock, checkLength, hl, hr]⟩)
    · by_cases h3 : s.ks = 3#2
      · exact .inr (.inr (.inl ⟨hl, rfl, h3, by
          simp [checkBlock, checkLength, hl, hr, (scheduleWords_inside_iff s.ks).2 h3]⟩))
      · have h60 : ¬ 60 < scheduleWords s.ks := fun h => h3 ((scheduleWords_inside_iff s.ks).1 h)
        exact .inr (.inr (.inr ⟨hl, rfl, h3, by simp [checkBlock, checkLength, hl, hr, h60]⟩))
  · exact .inl ⟨hl, checkLength_fail s _ hl⟩

/-- The next event when there is one. -/
theorem nextEvent_cons {s : State} {e : HostEvent} {es : List HostEvent} (h : s.pending = e :: es) :
    nextEvent s = some (e, s.withPending es) := by simp [nextEvent, h]

/-- The next event when there is none. -/
theorem nextEvent_nil {s : State} (h : s.pending = []) : nextEvent s = none := by simp [nextEvent, h]

/-- A reset clears every element of the engine and the response. -/
theorem takeReset_eq (s : State) : takeReset s = { State.reset with pending := s.pending } := rfl

end Sys2Proof.Machine
end

