-- ==== Sys2Proof/Laws/Exec.lean ====
section
/-! SUPPORT. What a command, and so a step, can do, said once: it answers and changes nothing else, or it is one of the
four that write the engine, or it is a block command under the mode that is never stored. -/

namespace Sys2Proof.Machine

open Sys2Proof

/-! ## The engine commands -/

/-- What `INIT` answers (43_block_cipher_engine.md rule R196). -/
theorem execInit_cases (ch : Chaining) (ks : BitVec 2) (inp : List Byte) (s : State) :
    (ks = 3#2 ∧ execInit ch ks inp s = .next (s.withResponse (some ⟨.errBadMode, []⟩))) ∨
      (ks ≠ 3#2 ∧ inp.length ≠ 16 + 8 * ks.toNat ∧
        execInit ch ks inp s = .next (s.withResponse (some ⟨.errKeyLength, []⟩))) ∨
      (ks ≠ 3#2 ∧ inp.length = 16 + 8 * ks.toNat ∧ s.ready = true ∧
        execInit ch ks inp s = .next (s.withResponse (some ⟨.errAlreadyConstructed, []⟩))) ∨
      (ks ≠ 3#2 ∧ inp.length = 16 + 8 * ks.toNat ∧ s.ready = false ∧
        execInit ch ks inp s =
          .next ((s.constructed ch ks inp (keyExpansion inp)).withResponse (some ⟨.ok, []⟩))) := by
  unfold execInit
  obtain ⟨h, e⟩ | ⟨h, hl, e⟩ | ⟨h, hl, e⟩ := checkKey_cases ks inp s
    (if s.ready = true then raiseErr .errAlreadyConstructed s
     else respond [] (s.constructed ch ks inp (keyExpansion inp)))
  · exact .inl ⟨h, e⟩
  · exact .inr (.inl ⟨h, hl, e⟩)
  · cases hr : s.ready
    · exact .inr (.inr (.inr ⟨h, hl, rfl, by rw [hr] at e; exact e⟩))
    · exact .inr (.inr (.inl ⟨h, hl, rfl, by rw [hr] at e; exact e⟩))

/-- `ENC` in ECB (R197). -/
theorem execEnc_ecb {s : State} (b : Block) (hr : s.ready = true) (hk : s.ks ≠ 3#2) (hc : s.ch = .ecb) :
    execEnc b.bytes s = .next (s.withResponse (some ⟨.ok, (cipher b s.w.toList (rounds s.ks)).bytes⟩)) := by
  have h60 : ¬ 60 < scheduleWords s.ks := fun h => hk ((scheduleWords_inside_iff s.ks).1 h)
  simp [execEnc, checkBlock, checkLength, hr, h60, hc]

/-- `ENC` in CBC (R197, 44_cbc_chaining.md rule R221). -/
theorem execEnc_cbc {s : State} (b : Block) (hr : s.ready = true) (hk : s.ks ≠ 3#2) (hc : s.ch = .cbc) :
    execEnc b.bytes s =
      .next ((s.withCv ((cipher b s.w.toList (rounds s.ks)).xor s.cv)).withResponse
        (some ⟨.ok, ((cipher b s.w.toList (rounds s.ks)).xor s.cv).bytes⟩)) := by
  have h60 : ¬ 60 < scheduleWords s.ks := fun h => hk ((scheduleWords_inside_iff s.ks).1 h)
  simp [execEnc, checkBlock, checkLength, hr, h60, hc, cbcEncUpdate]

/-- `DEC` in ECB (R198). -/
theorem execDec_ecb {s : State} (b : Block) (hr : s.ready = true) (hk : s.ks ≠ 3#2) (hc : s.ch = .ecb) :
    execDec b.bytes s = .next (s.withResponse (some ⟨.ok, (invCipher b s.w.toList (rounds s.ks)).bytes⟩)) := by
  have h60 : ¬ 60 < scheduleWords s.ks := fun h => hk ((scheduleWords_inside_iff s.ks).1 h)
  simp [execDec, checkBlock, checkLength, hr, h60, hc]

/-- `DEC` in CBC (R198, R222). -/
theorem execDec_cbc {s : State} (b : Block) (hr : s.ready = true) (hk : s.ks ≠ 3#2) (hc : s.ch = .cbc) :
    execDec b.bytes s =
      .next ((s.withCv b).withResponse
        (some ⟨.ok, (invCipher (b.xor s.cv) s.w.toList (rounds s.ks)).bytes⟩)) := by
  have h60 : ¬ 60 < scheduleWords s.ks := fun h => hk ((scheduleWords_inside_iff s.ks).1 h)
  simp [execDec, checkBlock, checkLength, hr, h60, hc, cbcDecUpdate]

/-! ## The pure commands by the shared operation each is -/

@[simp] theorem exec_subBytes (inp : List Byte) (s : State) : exec (.subBytes inp) s = blockCommand subBytes inp s := rfl
@[simp] theorem exec_invSubBytes (inp : List Byte) (s : State) :
    exec (.invSubBytes inp) s = blockCommand invSubBytes inp s := rfl
@[simp] theorem exec_shiftRows (inp : List Byte) (s : State) :
    exec (.shiftRows inp) s = blockCommand shiftRows inp s := rfl
@[simp] theorem exec_invShiftRows (inp : List Byte) (s : State) :
    exec (.invShiftRows inp) s = blockCommand invShiftRows inp s := rfl
@[simp] theorem exec_mixColumns (inp : List Byte) (s : State) :
    exec (.mixColumns inp) s = blockCommand mixColumns inp s := rfl
@[simp] theorem exec_invMixColumns (inp : List Byte) (s : State) :
    exec (.invMixColumns inp) s = blockCommand invMixColumns inp s := rfl
@[simp] theorem exec_addRoundKey (inp : List Byte) (s : State) :
    exec (.addRoundKey inp) s =
      pureCommand 32 (fun p => (addRoundKey (payloadBlock p 0) (payloadBlock p 16)).bytes) inp s := rfl
@[simp] theorem exec_transpose (inp : List Byte) (s : State) :
    exec (.transpose inp) s = blockCommand transpose inp s := rfl
@[simp] theorem exec_keyExpand (ks : BitVec 2) (inp : List Byte) (s : State) :
    exec (.keyExpand ks inp) s =
      checkKey ks inp s (respond (roundKeyBytes (keyExpansion inp) (rounds ks)) s) := rfl
@[simp] theorem exec_sbox (inp : List Byte) (s : State) : exec (.sbox inp) s = unitCommand sbox inp s := rfl
@[simp] theorem exec_invSbox (inp : List Byte) (s : State) : exec (.invSbox inp) s = unitCommand invSbox inp s := rfl
@[simp] theorem exec_gfMul2 (inp : List Byte) (s : State) : exec (.gfMul2 inp) s = unitCommand mul2 inp s := rfl
@[simp] theorem exec_gfMul3 (inp : List Byte) (s : State) : exec (.gfMul3 inp) s = unitCommand mul3 inp s := rfl
@[simp] theorem exec_gfMul9 (inp : List Byte) (s : State) : exec (.gfMul9 inp) s = unitCommand mul9 inp s := rfl
@[simp] theorem exec_gfMul11 (inp : List Byte) (s : State) : exec (.gfMul11 inp) s = unitCommand mul11 inp s := rfl
@[simp] theorem exec_gfMul13 (inp : List Byte) (s : State) : exec (.gfMul13 inp) s = unitCommand mul13 inp s := rfl
@[simp] theorem exec_gfMul14 (inp : List Byte) (s : State) : exec (.gfMul14 inp) s = unitCommand mul14 inp s := rfl

/-! ## Every command -/

/-- The command answers `r`, which is empty unless it is `OK`, and changes nothing else. -/
def AnswersOnly (i : Instr) (s : State) : Prop :=
  ∃ r : Response, (r.status ≠ .ok → r.out = []) ∧ exec i s = .next (s.withResponse (some r))

theorem AnswersOnly.of_error {i : Instr} {s : State} {st : Status}
    (h : exec i s = .next (s.withResponse (some ⟨st, []⟩))) : AnswersOnly i s := ⟨⟨st, []⟩, fun _ => rfl, h⟩

theorem AnswersOnly.of_ok {i : Instr} {s : State} {out : List Byte}
    (h : exec i s = .next (s.withResponse (some ⟨.ok, out⟩))) : AnswersOnly i s :=
  ⟨⟨.ok, out⟩, fun h => absurd rfl h, h⟩

theorem AnswersOnly.of_pure {i : Instr} {s : State} (n : Nat) (f : List Byte → List Byte) (inp : List Byte)
    (h : exec i s = pureCommand n f inp s) : AnswersOnly i s := by
  obtain ⟨_, e⟩ | ⟨_, e⟩ := pureCommand_cases n f inp s
  · exact .of_ok (h.trans e)
  · exact .of_error (h.trans e)

theorem AnswersOnly.of_block {i : Instr} {s : State} (f : Block → Block) (inp : List Byte)
    (h : exec i s = blockCommand f inp s) : AnswersOnly i s := .of_pure 16 _ inp h

theorem AnswersOnly.of_unit {i : Instr} {s : State} (f : Byte → Byte) (inp : List Byte)
    (h : exec i s = unitCommand f inp s) : AnswersOnly i s := .of_pure 1 _ inp h

/-- A pure command answers and changes nothing else (30_encoding.md rule R88). -/
theorem answersOnly_of_isPure (i : Instr) (s : State) (h : i.isPure = true) : AnswersOnly i s := by
  cases i with
  | status _ => cases h
  | init _ _ _ => cases h
  | enc _ => cases h
  | dec _ => cases h
  | zeroize _ => cases h
  | keyExpand ks inp =>
    obtain ⟨_, e⟩ | ⟨_, _, e⟩ | ⟨_, _, e⟩ := checkKey_cases ks inp s
      (respond (roundKeyBytes (keyExpansion inp) (rounds ks)) s)
    · exact .of_error e
    · exact .of_error e
    · exact .of_ok (e.trans (respond_eq _ _))
  | subBytes inp => exact .of_block subBytes inp rfl
  | invSubBytes inp => exact .of_block invSubBytes inp rfl
  | shiftRows inp => exact .of_block shiftRows inp rfl
  | invShiftRows inp => exact .of_block invShiftRows inp rfl
  | mixColumns inp => exact .of_block mixColumns inp rfl
  | invMixColumns inp => exact .of_block invMixColumns inp rfl
  | addRoundKey inp =>
    exact .of_pure 32 (fun p => (addRoundKey (payloadBlock p 0) (payloadBlock p 16)).bytes) inp rfl
  | transpose inp => exact .of_block transpose inp rfl
  | sbox inp => exact .of_unit sbox inp rfl
  | invSbox inp => exact .of_unit invSbox inp rfl
  | gfMul2 inp => exact .of_unit mul2 inp rfl
  | gfMul3 inp => exact .of_unit mul3 inp rfl
  | gfMul9 inp => exact .of_unit mul9 inp rfl
  | gfMul11 inp => exact .of_unit mul11 inp rfl
  | gfMul13 inp => exact .of_unit mul13 inp rfl
  | gfMul14 inp => exact .of_unit mul14 inp rfl

/-- Everything a command can do. -/
theorem exec_cases (i : Instr) (s : State) :
    AnswersOnly i s ∨
    (∃ ch ks inp, i = .init ch ks inp ∧ ks ≠ 3#2 ∧ inp.length = 16 + 8 * ks.toNat ∧ s.ready = false ∧
      exec i s = .next ((s.constructed ch ks inp (keyExpansion inp)).withResponse (some ⟨.ok, []⟩))) ∨
    (∃ b : Block, i = .enc b.bytes ∧ s.ready = true ∧ s.ks ≠ 3#2 ∧ s.ch = .cbc ∧
      exec i s = .next ((s.withCv ((cipher b s.w.toList (rounds s.ks)).xor s.cv)).withResponse
        (some ⟨.ok, ((cipher b s.w.toList (rounds s.ks)).xor s.cv).bytes⟩))) ∨
    (∃ b : Block, i = .dec b.bytes ∧ s.ready = true ∧ s.ks ≠ 3#2 ∧ s.ch = .cbc ∧
      exec i s = .next ((s.withCv b).withResponse
        (some ⟨.ok, (invCipher (b.xor s.cv) s.w.toList (rounds s.ks)).bytes⟩))) ∨
    (i = .zeroize [] ∧ exec i s = .next (s.zeroized.withResponse (some ⟨.ok, []⟩))) ∨
    ((∃ b : Block, i = .enc b.bytes ∨ i = .dec b.bytes) ∧ s.ready = true ∧ s.ks = 3#2 ∧
      exec i s = .fault .scheduleIndex) := by
  by_cases hp : i.isPure = true
  · exact .inl (answersOnly_of_isPure i s hp)
  cases i with
  | status inp =>
    obtain ⟨_, e⟩ | ⟨_, e⟩ := checkLength_cases 0 inp s (respond [statusRegister s] s)
    · exact .inl (.of_ok (e.trans (respond_eq _ _)))
    · exact .inl (.of_error e)
  | init ch ks inp =>
    obtain ⟨_, e⟩ | ⟨_, _, e⟩ | ⟨_, _, _, e⟩ | ⟨h3, hl, hr, e⟩ := execInit_cases ch ks inp s
    · exact .inl (.of_error e)
    · exact .inl (.of_error e)
    · exact .inl (.of_error e)
    · exact .inr (.inl ⟨ch, ks, inp, rfl, h3, hl, hr, e⟩)
  | enc inp =>
    obtain ⟨_, e⟩ | ⟨_, _, e⟩ | ⟨hl, hr, h3, e⟩ | ⟨hl, hr, h3, _⟩ := checkBlock_cases inp s
      (let y := cipher (payloadBlock inp 0) s.w.toList (rounds s.ks)
       match s.ch with
       | .ecb => respond y.bytes s
       | .cbc => respond (cbcEncUpdate y s.cv).1.bytes (s.withCv (cbcEncUpdate y s.cv).2))
    · exact .inl (.of_error e)
    · exact .inl (.of_error e)
    · obtain ⟨b, rfl⟩ := exists_block_of_length inp hl
      exact .inr (.inr (.inr (.inr (.inr ⟨⟨b, .inl rfl⟩, hr, h3, e⟩))))
    · obtain ⟨b, rfl⟩ := exists_block_of_length inp hl
      cases hc : s.ch
      · exact .inl (.of_ok (execEnc_ecb b hr h3 hc))
      · exact .inr (.inr (.inl ⟨b, rfl, hr, h3, rfl, execEnc_cbc b hr h3 hc⟩))
  | dec inp =>
    obtain ⟨_, e⟩ | ⟨_, _, e⟩ | ⟨hl, hr, h3, e⟩ | ⟨hl, hr, h3, _⟩ := checkBlock_cases inp s
      (let c := payloadBlock inp 0
       match s.ch with
       | .ecb => respond (invCipher c s.w.toList (rounds s.ks)).bytes s
       | .cbc => respond (invCipher (cbcDecUpdate c s.cv).1 s.w.toList (rounds s.ks)).bytes
                   (s.withCv (cbcDecUpdate c s.cv).2))
    · exact .inl (.of_error e)
    · exact .inl (.of_error e)
    · obtain ⟨b, rfl⟩ := exists_block_of_length inp hl
      exact .inr (.inr (.inr (.inr (.inr ⟨⟨b, .inr rfl⟩, hr, h3, e⟩))))
    · obtain ⟨b, rfl⟩ := exists_block_of_length inp hl
      cases hc : s.ch
      · exact .inl (.of_ok (execDec_ecb b hr h3 hc))
      · exact .inr (.inr (.inr (.inl ⟨b, rfl, hr, h3, rfl, execDec_cbc b hr h3 hc⟩)))
  | zeroize inp =>
    obtain ⟨h, e⟩ | ⟨_, e⟩ := checkLength_cases 0 inp s (respond [] s.zeroized)
    · obtain rfl := List.length_eq_zero_iff.1 h
      exact .inr (.inr (.inr (.inr (.inl ⟨rfl, e⟩))))
    · exact .inl (.of_error e)
  | subBytes _ | invSubBytes _ | shiftRows _ | invShiftRows _ | mixColumns _ | invMixColumns _ | addRoundKey _
  | transpose _ | keyExpand _ _ | sbox _ | invSbox _ | gfMul2 _ | gfMul3 _ | gfMul9 _ | gfMul11 _ | gfMul13 _
  | gfMul14 _ => exact absurd rfl hp

/-! ## A step -/

/-- Everything a step can do: wait, take a reset, answer an undefined byte, or execute a command. -/
theorem step_cases (s : State) :
    (s.pending = [] ∧ step s = .next s) ∨
    (∃ es, s.pending = .reset :: es ∧ step s = .next (takeReset (s.withPending es))) ∨
    (∃ cmd inp es, s.pending = .resetDuring cmd inp :: es ∧ step s = .next (takeReset (s.withPending es))) ∨
    (∃ cmd inp es e, s.pending = .command cmd inp :: es ∧ decode cmd inp = .error e ∧
      step s = .next ((s.withPending es).withResponse (some ⟨.errIllegalCommand, []⟩))) ∨
    (∃ cmd inp es i, s.pending = .command cmd inp :: es ∧ decode cmd inp = .ok i ∧
      step s = exec i (s.withPending es)) := by
  match hp : s.pending with
  | [] => exact .inl ⟨rfl, by simp [step, nextEvent_nil hp]⟩
  | .reset :: es => exact .inr (.inl ⟨es, rfl, by simp [step, nextEvent_cons hp]⟩)
  | .resetDuring cmd inp :: es => exact .inr (.inr (.inl ⟨cmd, inp, es, rfl, by simp [step, nextEvent_cons hp]⟩))
  | .command cmd inp :: es =>
    cases hd : decode cmd inp with
    | error e => exact .inr (.inr (.inr (.inl ⟨cmd, inp, es, e, rfl, hd, by simp [step, nextEvent_cons hp, hd]⟩)))
    | ok i => exact .inr (.inr (.inr (.inr ⟨cmd, inp, es, i, rfl, hd, by simp [step, nextEvent_cons hp, hd]⟩)))

end Sys2Proof.Machine
end

