-- ==== Sys2Proof/Laws/KeySchedule.lean ====
section
/-! SUPPORT. The shape of the key expansion: its length, its prefixes, and the round constants it reads. -/

namespace Sys2Proof.Machine

open Sys2Proof

@[simp] theorem keyWords_length (n : Nat) (key : List Byte) : (keyWords n key).length = n := by simp [keyWords]

@[simp] theorem expandBy_length (n more : Nat) (w : List Word) : (expandBy n more w).length = w.length + more := by
  induction more generalizing w with
  | zero => rfl
  | succ more ih => rw [expandBy, ih]; simp; omega

/-- The loop leaves the words it starts from in place (41_key_schedule.md rule R144). -/
theorem expandBy_prefix (n more : Nat) (w : List Word) : w <+: expandBy n more w := by
  induction more generalizing w with
  | zero => exact List.prefix_rfl
  | succ more ih => exact (List.prefix_append w [nextWord n w]).trans (ih _)

/-- A word already computed is not changed by the loop. -/
theorem expandBy_getD (n more : Nat) (w : List Word) (c : Nat) (h : c < w.length) :
    (expandBy n more w).getD c Word.zero = w.getD c Word.zero := by
  have hp := expandBy_prefix n more w
  obtain ⟨t, ht⟩ := hp
  rw [← ht]
  simp [List.getD, List.getElem?_append_left h]

/-- `4*(Nr+1)` words for a key of `n` words (R140). -/
theorem keyExpansion_length (n : Nat) (key : List Byte) (h : key.length = 4 * n) :
    (keyExpansion key).length = 4 * (n + 7) := by
  have hn : key.length / 4 = n := by omega
  simp only [keyExpansion, hn, expandBy_length, keyWords_length]
  omega

/-- A legal mode is 0, 1 or 2 (10_state.md rule R33). -/
theorem legal_mode_lt : ∀ ks : BitVec 2, ks ≠ 3#2 → ks.toNat < 3 := by decide

/-- Every index at which the expansion reads `RCON` is one of its ten entries (20_memory.md rule R53). -/
theorem rcon_index_in_range (ks : BitVec 2) (hks : ks ≠ 3#2) (c : Nat) (hlo : keyWordCount ks ≤ c)
    (hhi : c < scheduleWords ks) (_ : c % keyWordCount ks = 0) : 1 ≤ c / keyWordCount ks ∧ c / keyWordCount ks ≤ 10 := by
  have hn : 4 ≤ keyWordCount ks := by simp only [keyWordCount]; omega
  have h3 : ks.toNat < 3 := legal_mode_lt ks hks
  refine ⟨(Nat.one_le_div_iff (by omega)).2 hlo, Nat.le_of_lt_succ ((Nat.div_lt_iff_lt_mul (by omega)).2 ?_)⟩
  simp only [scheduleWords, rounds, keyWordCount] at *
  omega

end Sys2Proof.Machine
end

