-- ==== Sys2Proof/Laws/PerInstr.lean ====
section
/-! SUPPORT. Statements made for every instruction, one lemma per constructor: the class of each command in the upper
bits of its command byte (30_encoding.md rule R82). -/

namespace Sys2Proof.Laws.ClassNibble

open Sys2Proof

/-- `cmd[7:4]` of each command's class (R82). -/
def classNibble : Instr → BitVec 4
  | .status _ => 0b0000#4
  | .init _ _ _ => 0b0001#4
  | .enc _ | .dec _ => 0b0010#4
  | .zeroize _ => 0b0011#4
  | .subBytes _ | .invSubBytes _ | .shiftRows _ | .invShiftRows _ | .mixColumns _ | .invMixColumns _
  | .addRoundKey _ | .transpose _ | .keyExpand _ _ => 0b0100#4
  | .sbox _ | .invSbox _ => 0b1000#4
  | .gfMul2 _ | .gfMul3 _ | .gfMul9 _ | .gfMul11 _ | .gfMul13 _ | .gfMul14 _ => 0b1001#4

/-- The command byte of a command has the upper bits of its class. -/
def Statement (i : Instr) : Prop := (commandByte i).extractLsb' 4 4 = classNibble i

theorem status (inp : List Byte) : Statement (.status inp) := by simp [Statement, commandByte, classNibble]
theorem init (ch : Chaining) (ks : BitVec 2) (inp : List Byte) : Statement (.init ch ks inp) := by
  cases ch <;> revert ks <;> simp only [Statement, commandByte, classNibble] <;> decide
theorem enc (inp : List Byte) : Statement (.enc inp) := by simp [Statement, commandByte, classNibble]
theorem dec (inp : List Byte) : Statement (.dec inp) := by simp [Statement, commandByte, classNibble]
theorem zeroize (inp : List Byte) : Statement (.zeroize inp) := by simp [Statement, commandByte, classNibble]
theorem subBytes (inp : List Byte) : Statement (.subBytes inp) := by simp [Statement, commandByte, classNibble]
theorem invSubBytes (inp : List Byte) : Statement (.invSubBytes inp) := by simp [Statement, commandByte, classNibble]
theorem shiftRows (inp : List Byte) : Statement (.shiftRows inp) := by simp [Statement, commandByte, classNibble]
theorem invShiftRows (inp : List Byte) : Statement (.invShiftRows inp) := by simp [Statement, commandByte, classNibble]
theorem mixColumns (inp : List Byte) : Statement (.mixColumns inp) := by simp [Statement, commandByte, classNibble]
theorem invMixColumns (inp : List Byte) : Statement (.invMixColumns inp) := by simp [Statement, commandByte, classNibble]
theorem addRoundKey (inp : List Byte) : Statement (.addRoundKey inp) := by simp [Statement, commandByte, classNibble]
theorem transpose (inp : List Byte) : Statement (.transpose inp) := by simp [Statement, commandByte, classNibble]
theorem keyExpand (ks : BitVec 2) (inp : List Byte) : Statement (.keyExpand ks inp) := by
  revert ks; simp only [Statement, commandByte, classNibble]; decide
theorem sbox (inp : List Byte) : Statement (.sbox inp) := by simp [Statement, commandByte, classNibble]
theorem invSbox (inp : List Byte) : Statement (.invSbox inp) := by simp [Statement, commandByte, classNibble]
theorem gfMul2 (inp : List Byte) : Statement (.gfMul2 inp) := by simp [Statement, commandByte, classNibble]
theorem gfMul3 (inp : List Byte) : Statement (.gfMul3 inp) := by simp [Statement, commandByte, classNibble]
theorem gfMul9 (inp : List Byte) : Statement (.gfMul9 inp) := by simp [Statement, commandByte, classNibble]
theorem gfMul11 (inp : List Byte) : Statement (.gfMul11 inp) := by simp [Statement, commandByte, classNibble]
theorem gfMul13 (inp : List Byte) : Statement (.gfMul13 inp) := by simp [Statement, commandByte, classNibble]
theorem gfMul14 (inp : List Byte) : Statement (.gfMul14 inp) := by simp [Statement, commandByte, classNibble]

end Sys2Proof.Laws.ClassNibble
end

