-- ==== Sys2Proof/Laws/Tables.lean ====
section
/-! SUPPORT. The small laws of the Galois-field units: `xtime`, and so each unit, is linear over `XOR`. -/

namespace Sys2Proof.Machine

open Sys2Proof

/-- `xtime` as `XOR` of two linear terms, bit by bit (40_tables_and_gf.md rule R112). -/
theorem xtime_xor (a b : Byte) : xtime (a ^^^ b) = xtime a ^^^ xtime b := by
  simp only [xtime, BitVec.getLsbD_xor, BitVec.shiftLeft_xor_distrib]
  have cancel (x y c : Byte) : x ^^^ y = x ^^^ c ^^^ (y ^^^ c) := by
    rw [BitVec.xor_comm y c, ← BitVec.xor_assoc, BitVec.xor_assoc x c c, BitVec.xor_self, BitVec.xor_zero]
  cases a.getLsbD 7 <;> cases b.getLsbD 7
  · simp
  · simp [BitVec.xor_assoc]
  · simp; ac_rfl
  · simpa using cancel (a <<< 1) (b <<< 1) 0x1B#8

@[simp] theorem xtime_zero : xtime 0#8 = 0#8 := by decide

theorem x8_xor (a b : Byte) : x8 (a ^^^ b) = x8 a ^^^ x8 b := by simp [x8, xtime_xor]

/-! Each multiply unit is linear (R111(c)). -/

theorem mul2_xor (a b : Byte) : mul2 (a ^^^ b) = mul2 a ^^^ mul2 b := xtime_xor a b
theorem mul3_xor (a b : Byte) : mul3 (a ^^^ b) = mul3 a ^^^ mul3 b := by simp only [mul3, xtime_xor]; ac_rfl
theorem mul9_xor (a b : Byte) : mul9 (a ^^^ b) = mul9 a ^^^ mul9 b := by simp only [mul9, x8_xor]; ac_rfl
theorem mul11_xor (a b : Byte) : mul11 (a ^^^ b) = mul11 a ^^^ mul11 b := by
  simp only [mul11, x8_xor, xtime_xor]; ac_rfl
theorem mul13_xor (a b : Byte) : mul13 (a ^^^ b) = mul13 a ^^^ mul13 b := by
  simp only [mul13, x8_xor, xtime_xor]; ac_rfl
theorem mul14_xor (a b : Byte) : mul14 (a ^^^ b) = mul14 a ^^^ mul14 b := by
  simp only [mul14, x8_xor, xtime_xor]; ac_rfl

end Sys2Proof.Machine
end

