-- ==== Sys2Proof/Tests/Slice0.lean ====
section
/-! SUPPORT. The tests: the well-formedness smoke, decoding of bytes written out from the opcode map, results taken from
the spec's vectors (95_test_vectors.md, 96_test_vectors_part2.md, V<n>) and examples (R<n>), and a witness for the
hypotheses of every statement. -/

namespace Sys2Proof.Tests

open Sys2Proof Sys2Proof.Machine

-- One theorem after another: each evaluation in the kernel otherwise holds a thread of its own.
set_option Elab.async false

/-! ## Helpers -/

/-- A freshly constructed engine. -/
def engine (ch : Chaining) (ks : BitVec 2) (key : List Byte) : State :=
  State.reset.constructed ch ks key (keyExpansion key)

/-- The key `00 01 02 …` of `n` bytes, the key of V50 to V67. -/
def countKey (n : Nat) : List Byte := (List.range n).map fun k => BitVec.ofNat 8 k

/-- The response a command gives. -/
def answer (i : Instr) (s : State) : Option Response :=
  match exec i s with
  | .next t => t.response
  | .fault _ => none
  | .refused _ => none

/-- The output of an `OK` response. -/
def okOut (i : Instr) (s : State) : Option (List Byte) :=
  match answer i s with
  | some ⟨.ok, out⟩ => some out
  | _ => none

/-- The status and output of each command of a run. -/
def replies (is : List Instr) (s : State) : Option (List Response) :=
  (runCommands is s).map fun q => q.1.map fun x => x.response

/-- The block of V50 and V60, `00112233445566778899aabbccddeeff`. -/
def plain0 : Block := payloadBlock (hexBytes 16 0x00112233445566778899aabbccddeeff) 0

/-- The block `ffeeddccbbaa99887766554433221100` of V60. -/
def plain1 : Block := payloadBlock (hexBytes 16 0xffeeddccbbaa99887766554433221100) 0

/-- Engines of V50 and V60. -/
def ecb128 : State := engine .ecb 0#2 (countKey 16)
def cbc128 : State := engine .cbc 0#2 (countKey 16)
def cbc256 : State := engine .cbc 2#2 (countKey 32)

/-- The plaintext `01 02 03 …` of V90. -/
def streamPlain (n : Nat) : List Byte := (List.range n).map fun k => BitVec.ofNat 8 (k + 1)

/-- The engine of V90 to V94: the all-zero 128-bit key. -/
def zeroEngine (ch : Chaining) : State := engine ch 0#2 (hexBytes 16 0)

/-! ## Well-formedness -/

theorem test_wellFormed_accepts :
    (Instr.init .cbc 2#2 (countKey 32)).wellFormed = true ∧ (Instr.keyExpand 1#2 (countKey 24)).wellFormed = true ∧
    (Instr.enc (countKey 16)).wellFormed = true ∧ (Instr.status []).wellFormed = true ∧
    (Instr.addRoundKey (countKey 32)).wellFormed = true ∧ (Instr.sbox [0x00#8]).wellFormed = true := by decide

/-- The mode check: `ks = 11` has no required length (R91). -/
theorem test_wellFormed_refuses_mode :
    (Instr.init .ecb 3#2 (countKey 16)).wellFormed = false ∧ (Instr.init .cbc 3#2 (countKey 40)).wellFormed = false ∧
    (Instr.keyExpand 3#2 []).wellFormed = false := by decide

/-- The length check, too short and too long (R91, R86). -/
theorem test_wellFormed_refuses_length :
    (Instr.init .ecb 1#2 (countKey 16)).wellFormed = false ∧ (Instr.keyExpand 0#2 (countKey 17)).wellFormed = false ∧
    (Instr.enc (countKey 15)).wellFormed = false ∧ (Instr.dec (countKey 17)).wellFormed = false ∧
    (Instr.status [0x00#8]).wellFormed = false ∧ (Instr.zeroize [0x00#8]).wellFormed = false ∧
    (Instr.addRoundKey (countKey 16)).wellFormed = false ∧ (Instr.transpose []).wellFormed = false ∧
    (Instr.gfMul9 [0x01#8, 0x02#8]).wellFormed = false ∧ (Instr.sbox []).wellFormed = false := by decide

/-! ## Decoding, every constructor by bytes written out from R86 -/

theorem test_decode_engine :
    decodeBytes [0b00000000#8] = .ok (.status []) ∧
    decodeBytes [0b00010000#8, 0x2B#8] = .ok (.init .ecb 0#2 [0x2B#8]) ∧
    decodeBytes [0b00010001#8] = .ok (.init .ecb 1#2 []) ∧ decodeBytes [0b00010010#8] = .ok (.init .ecb 2#2 []) ∧
    decodeBytes [0b00010011#8] = .ok (.init .ecb 3#2 []) ∧ decodeBytes [0b00010100#8] = .ok (.init .cbc 0#2 []) ∧
    decodeBytes [0b00010111#8] = .ok (.init .cbc 3#2 []) ∧
    decodeBytes [0b00100000#8, 0x01#8, 0x02#8] = .ok (.enc [0x01#8, 0x02#8]) ∧
    decodeBytes [0b00100001#8] = .ok (.dec []) ∧ decodeBytes [0b00110000#8] = .ok (.zeroize []) := by decide

theorem test_decode_primitives :
    decodeBytes [0b01000000#8] = .ok (.subBytes []) ∧ decodeBytes [0b01000001#8] = .ok (.invSubBytes []) ∧
    decodeBytes [0b01000010#8] = .ok (.shiftRows []) ∧ decodeBytes [0b01000011#8] = .ok (.invShiftRows []) ∧
    decodeBytes [0b01000100#8] = .ok (.mixColumns []) ∧ decodeBytes [0b01000101#8] = .ok (.invMixColumns []) ∧
    decodeBytes [0b01000110#8] = .ok (.addRoundKey []) ∧ decodeBytes [0b01000111#8] = .ok (.transpose []) ∧
    decodeBytes [0b01001000#8] = .ok (.keyExpand 0#2 []) ∧ decodeBytes [0b01001011#8] = .ok (.keyExpand 3#2 []) := by
  decide

theorem test_decode_units :
    decodeBytes [0b10000000#8, 0x53#8] = .ok (.sbox [0x53#8]) ∧ decodeBytes [0b10000001#8] = .ok (.invSbox []) ∧
    decodeBytes [0b10010010#8] = .ok (.gfMul2 []) ∧ decodeBytes [0b10010011#8] = .ok (.gfMul3 []) ∧
    decodeBytes [0b10011001#8] = .ok (.gfMul9 []) ∧ decodeBytes [0b10011011#8] = .ok (.gfMul11 []) ∧
    decodeBytes [0b10011101#8] = .ok (.gfMul13 []) ∧ decodeBytes [0b10011110#8] = .ok (.gfMul14 []) := by decide

theorem test_decode_refuses :
    decodeBytes [] = .error .noCommandByte ∧ decodeBytes [0x18#8] = .error (.illegalCommand 0x18#8) ∧
    decodeBytes [0x4C#8, 0x00#8] = .error (.illegalCommand 0x4C#8) ∧
    decodeBytes [0x90#8] = .error (.illegalCommand 0x90#8) ∧ decodeBytes [0xFF#8] = .error (.illegalCommand 0xFF#8) := by
  decide

/-- The encoding of the two lines of R100. -/
theorem test_encode :
    encode (.init .ecb 0#2 (hexBytes 16 0)) = 0x10#8 :: List.replicate 16 0x00#8 ∧
    encode (.enc (hexBytes 16 0)) = 0x20#8 :: List.replicate 16 0x00#8 := by decide

/-- Words numbered as spec/opcode_table.json numbers them: one command byte, the payload filled to its length. -/
theorem test_decodeTableWord :
    decodeTableWord 8 0x9E = some (.gfMul14 [0x00#8]) ∧ decodeTableWord 16 0x5780 = some (.sbox [0x57#8]) ∧
    decodeTableWord 8 0x11 = some (.init .ecb 1#2 (List.replicate 24 0x00#8)) ∧ decodeTableWord 8 0x18 = none := by
  decide +kernel

/-- V100: how many of the 256 command bytes give each status on a reset engine with an empty payload. -/
theorem test_v100_classification :
    let statuses := (List.range 256).map fun n =>
      match step (State.reset.withPending [.command (BitVec.ofNat 8 n) []]) with
      | .next t => t.response.map Response.status
      | .fault _ => none
      | .refused _ => none
    [Status.ok, .errBadMode, .errKeyLength, .errIllegalCommand, .errPayloadLength, .errNotReady,
      .errAlreadyConstructed].map (fun st => statuses.count (some st)) = [2, 3, 9, 224, 18, 0, 0] := by decide +kernel

/-! ## Unit lookups (V10, V12) -/

theorem test_sbox :
    okOut (.sbox [0x53#8]) State.reset = some [0xED#8] ∧ okOut (.sbox [0x8D#8]) ecb128 = some [0x5D#8] := by
  decide +kernel
theorem test_invSbox :
    okOut (.invSbox [0x63#8]) State.reset = some [0x00#8] ∧ okOut (.invSbox [0xC6#8]) ecb128 = some [0xC7#8] := by
  decide +kernel
theorem test_gfMul2 : okOut (.gfMul2 [0x8D#8]) State.reset = some [0x01#8] := by decide +kernel
theorem test_gfMul3 : okOut (.gfMul3 [0xF6#8]) State.reset = some [0x01#8] := by decide +kernel
theorem test_gfMul9 : okOut (.gfMul9 [0xC6#8]) State.reset = some [0xAC#8] := by decide +kernel
theorem test_gfMul11 : okOut (.gfMul11 [0xC6#8]) State.reset = some [0x3B#8] := by decide +kernel
theorem test_gfMul13 : okOut (.gfMul13 [0x53#8]) State.reset = some [0xAA#8] := by decide +kernel
theorem test_gfMul14 : okOut (.gfMul14 [0x53#8]) State.reset = some [0x5F#8] := by decide +kernel
theorem test_unit_lengths :
    answer (.sbox []) ecb128 = some ⟨.errPayloadLength, []⟩ ∧
    answer (.gfMul9 [0x01#8, 0x02#8]) ecb128 = some ⟨.errPayloadLength, []⟩ := by decide +kernel

/-! ## Round primitives (V40 to V47): block `B` of the vectors -/

theorem test_subBytes :
    okOut (.subBytes (hexBytes 16 0x193de3bea0f4e22b9ac68d2ae9f84808)) State.reset =
      some (hexBytes 16 0xd42711aee0bf98f1b8b45de51e415230) := by decide +kernel
theorem test_invSubBytes :
    okOut (.invSubBytes (hexBytes 16 0x193de3bea0f4e22b9ac68d2ae9f84808)) State.reset =
      some (hexBytes 16 0x8e8b4d5a47ba3b0b37c7b495ebe1d4bf) := by decide +kernel
theorem test_shiftRows :
    okOut (.shiftRows (hexBytes 16 0x193de3bea0f4e22b9ac68d2ae9f84808)) State.reset =
      some (hexBytes 16 0x19f48d08a0c648be9af8e32be93de22a) := by decide +kernel
theorem test_invShiftRows :
    okOut (.invShiftRows (hexBytes 16 0x193de3bea0f4e22b9ac68d2ae9f84808)) State.reset =
      some (hexBytes 16 0x19f88d2ba03d482a9af4e308e9c6e2be) := by decide +kernel
theorem test_mixColumns :
    okOut (.mixColumns (hexBytes 16 0xdb135345f20a225c01010101c6c6c6c6)) State.reset =
      some (hexBytes 16 0x8e4da1bc9fdc589d01010101c6c6c6c6) := by decide +kernel
theorem test_invMixColumns :
    okOut (.invMixColumns (hexBytes 16 0x193de3bea0f4e22b9ac68d2ae9f84808)) State.reset =
      some (hexBytes 16 0x083c004d0290616e1cafe6ae968195d3) := by decide +kernel
theorem test_addRoundKey :
    okOut (.addRoundKey (hexBytes 32 0x193de3bea0f4e22b9ac68d2ae9f84808a0fafe1788542cb123a339392a6c7605)) ecb128 =
      some (hexBytes 16 0xb9c71da928a0ce9ab965b413c3943e0d) := by decide +kernel
theorem test_transpose :
    okOut (.transpose (countKey 16)) State.reset = some (hexBytes 16 0x0004080c0105090d02060a0e03070b0f) := by
  decide +kernel

/-! ## The key schedule (R151, R147, V103) -/

/-- R151: first computed words and last word, for the three key sizes. -/
theorem test_expansion_128 :
    let w := keyExpansion (hexBytes 16 0x2b7e151628aed2a6abf7158809cf4f3c)
    [4, 5, 6, 43].map (fun c => (w.getD c Word.zero).bytes) =
      [hexBytes 4 0xa0fafe17, hexBytes 4 0x88542cb1, hexBytes 4 0x23a33939, hexBytes 4 0xb6630ca6] ∧ w.length = 44 := by
  decide +kernel
theorem test_expansion_192 :
    let w := keyExpansion (hexBytes 24 0x8e73b0f7da0e6452c810f32b809079e562f8ead2522c6b7b)
    [6, 7, 8, 51].map (fun c => (w.getD c Word.zero).bytes) =
      [hexBytes 4 0xfe0c91f7, hexBytes 4 0x2402f5a5, hexBytes 4 0xec12068e, hexBytes 4 0x01002202] ∧ w.length = 52 := by
  decide +kernel
theorem test_expansion_256 :
    let w := keyExpansion (hexBytes 32 0x603deb1015ca71be2b73aef0857d77811f352c073b6108d72d9810a30914dff4)
    [8, 9, 12, 59].map (fun c => (w.getD c Word.zero).bytes) =
      [hexBytes 4 0x9ba35411, hexBytes 4 0x8e6925af, hexBytes 4 0xa8b09c1a, hexBytes 4 0x706c631e] ∧ w.length = 60 := by
  decide +kernel

/-- R147: how many indices take the first and the second branch, for the three key lengths. -/
theorem test_expansion_branches :
    [4, 6, 8].map (fun n =>
      let cs := (List.range (4 * (n + 7))).filter fun c => n ≤ c
      (cs.countP fun c => c % n = 0, cs.countP fun c => c % n ≠ 0 ∧ n > 6 ∧ c % n = 4)) =
    [(10, 0), (8, 0), (7, 6)] := by decide +kernel

theorem test_keyExpand_errors :
    answer (.keyExpand 0#2 (countKey 17)) State.reset = some ⟨.errKeyLength, []⟩ ∧
    answer (.keyExpand 2#2 (countKey 24)) ecb128 = some ⟨.errKeyLength, []⟩ ∧
    answer (.keyExpand 3#2 (countKey 16)) State.reset = some ⟨.errBadMode, []⟩ := by decide +kernel

/-! ## The engine commands -/

/-- V50 for the three key sizes, and `DEC` back. -/
theorem test_v50_aes128 :
    okOut (.enc plain0.bytes) ecb128 = some (hexBytes 16 0x69c4e0d86a7b0430d8cdb78070b4c55a) ∧
    okOut (.dec (hexBytes 16 0x69c4e0d86a7b0430d8cdb78070b4c55a)) ecb128 = some plain0.bytes := by decide +kernel
theorem test_v50_aes192 :
    okOut (.enc plain0.bytes) (engine .ecb 1#2 (countKey 24)) =
      some (hexBytes 16 0xdda97ca4864cdfe06eaf70a0ec0d7191) := by decide +kernel
theorem test_v50_aes256 :
    okOut (.enc plain0.bytes) (engine .ecb 2#2 (countKey 32)) =
      some (hexBytes 16 0x8ea2b7ca516745bfeafc49904b496089) := by decide +kernel

/-- The second and third blocks of V60: the chaining value is XORed into the cipher's output. -/
theorem test_v60_cbc_enc :
    (replies [.enc plain0.bytes, .enc plain1.bytes, .enc plain0.bytes] cbc128).map (fun rs => rs.map Response.out) =
      some [hexBytes 16 0x69c4e0d86a7b0430d8cdb78070b4c55a, hexBytes 16 0x7243c3a013244bcdafe5e27cf77e5317,
        hexBytes 16 0x1b872378795f4ffd772855fc87ca964d] := by decide +kernel

/-- The second block of V61, and `CV` after it: the ciphertext as received. -/
theorem test_v61_cbc_dec :
    (match exec (.dec (hexBytes 16 0x7243c3a013244bcdafe5e27cf77e5317))
        (cbc128.withCv (payloadBlock (hexBytes 16 0x69c4e0d86a7b0430d8cdb78070b4c55a) 0)) with
      | .next t => some (t.response, t.cv.bytes)
      | .fault _ => none
      | .refused _ => none) =
    some (some ⟨.ok, plain1.bytes⟩, hexBytes 16 0x7243c3a013244bcdafe5e27cf77e5317) := by decide +kernel

/-- V66: `DEC` of what the same engine has just encrypted. -/
theorem test_v66_shared_register :
    okOut (.dec (hexBytes 16 0x69c4e0d86a7b0430d8cdb78070b4c55a))
      (cbc128.withCv (payloadBlock (hexBytes 16 0x69c4e0d86a7b0430d8cdb78070b4c55a) 0)) =
    some (hexBytes 16 0x7b1d29a16cf8ccab84f0b8a598e42fa6) := by decide +kernel

/-- V101: rows 2, 5, 8 on a reset engine and rows 13, 15, 16, 19 on a constructed one. -/
theorem test_v101_errors :
    answer (.enc (hexBytes 16 0)) State.reset = some ⟨.errNotReady, []⟩ ∧
    answer (.init .ecb 3#2 (hexBytes 5 0)) State.reset = some ⟨.errBadMode, []⟩ ∧
    answer (.init .ecb 1#2 (hexBytes 16 0)) State.reset = some ⟨.errKeyLength, []⟩ ∧
    answer (.init .ecb 0#2 (countKey 16)) ecb128 = some ⟨.errAlreadyConstructed, []⟩ ∧
    answer (.init .ecb 0#2 (hexBytes 15 0)) ecb128 = some ⟨.errKeyLength, []⟩ ∧
    answer (.init .cbc 3#2 []) ecb128 = some ⟨.errBadMode, []⟩ ∧
    answer (.zeroize [0x00#8]) ecb128 = some ⟨.errPayloadLength, []⟩ := by decide +kernel

/-- R200, R196: the status register by mode. -/
theorem test_status :
    okOut (.status []) State.reset = some [0x00#8] ∧ okOut (.status []) ecb128 = some [0x08#8] ∧
    okOut (.status []) cbc256 = some [0x0E#8] ∧ okOut (.status []) (engine .cbc 1#2 (countKey 24)) = some [0x0D#8] := by
  decide +kernel

/-- R199: `ZEROIZE` clears key, schedule and chaining value, and V102: so does a reset. -/
theorem test_zeroize_and_reset :
    (match exec (.zeroize []) (cbc128.withCv plain1) with
      | .next t => some (t.key, t.w, t.cv, t.ready)
      | .fault _ => none
      | .refused _ => none) =
      some (Vector.replicate 32 0x00#8, Vector.replicate 60 Word.zero, Block.zero, false) ∧
    (match step (cbc128.withPending [.reset, .command 0x00#8 []]) with
      | .next t => some (t.key, t.ready, t.response, t.pending)
      | .fault _ => none
      | .refused _ => none) =
      some (Vector.replicate 32 0x00#8, false, none, [.command 0x00#8 []]) := by decide +kernel

/-- R196: unused key bytes and schedule words are zero, and the last used word is that of program P4. -/
theorem test_init_state :
    (match exec (.init .cbc 2#2 (countKey 32)) State.reset with
      | .next t => some ((t.w[59]).bytes, t.key.toList.drop 30, t.ks, t.ch)
      | .fault _ => none
      | .refused _ => none) = some (hexBytes 4 0x6d68de36, [0x1E#8, 0x1F#8], 2#2, .cbc) ∧
    (match exec (.init .ecb 0#2 (countKey 16)) State.reset with
      | .next t => some ((t.w[43]).bytes, t.w[44], t.key.toList.drop 15)
      | .fault _ => none
      | .refused _ => none) = some (hexBytes 4 0x4d2b30c5, Word.zero, 0x0F#8 :: List.replicate 16 0x00#8) := by
  decide +kernel

/-- The word the host places is what the next step runs. -/
theorem test_withFetchWord :
    (match step (State.reset.withFetchWord 16 0x5780) with
      | .next t => t.response
      | .fault _ => none
      | .refused _ => none) = some ⟨.ok, [0x5B#8]⟩ := by decide +kernel

/-! ## What the engine must not compute -/

/-- V70 and 90_conflicts.md C1: the literal loop bound would decrypt the known answer to sixteen `0x52`. -/
theorem test_v70_not_the_literal_loop :
    (invCipher (payloadBlock (hexBytes 16 0x66e94bd4ef8a2c3b884cfa59ca342b2e) 0) (keyExpansion (hexBytes 16 0)) 10).bytes ≠
      List.replicate 16 0x52#8 := by decide +kernel

/-- R227: the second block is not that of the textbook CBC. -/
theorem test_r227_not_textbook_cbc :
    (replies [.enc plain0.bytes, .enc plain1.bytes] cbc128).map (fun rs => (rs.map Response.out).getD 1 []) ≠
      some (hexBytes 16 0x6af6d9cf51342e31bbab36aa90a22194) := by decide +kernel

/-! ## Streams (V90, R256, V93, V94) -/

theorem test_v90_encryptStream :
    let r := encryptStream (streamPlain 17) (zeroEngine .cbc)
    (r.written, r.ended, r.output) =
      (32, .done, hexBytes 32 0x659f2abfc5bc0708fb96e7a44af9d5954afd831b7759c7603c3cfdd17a4af11d) := by decide +kernel
theorem test_v90_empty :
    let r := encryptStream [] (zeroEngine .ecb)
    (r.written, r.output) = (16, hexBytes 16 0x0143db63ee66b0cdff9f69917680151e) := by decide +kernel

/-- The example of R246: 11 bytes of the last block are emitted. -/
theorem test_r246_decryptStream :
    let r := decryptStream (hexBytes 16 0x6eedfdb1dc14a801c5fe74c409ae6dd9) (zeroEngine .ecb)
    (r.output, r.ended) = (hexBytes 11 0x00112233445566778899aa, .done) := by decide +kernel

/-- V94: 33 bytes of input; one `DEC` was issued and the held block is lost. -/
theorem test_v94_framing :
    let r := decryptStream (hexBytes 32 0x659f2abfc5bc0708fb96e7a44af9d5954afd831b7759c7603c3cfdd17a4af11d ++ [0x00#8])
      (zeroEngine .cbc)
    (r.output, r.ended, r.engine.cv.bytes) =
      (streamPlain 16, .hostErr .framing, hexBytes 16 0x659f2abfc5bc0708fb96e7a44af9d595) := by decide +kernel

/-! ## Assembler notation (R100, R101) -/

theorem test_assemble :
    assemble "INIT AES128.ECB, 00000000000000000000000000000000   ; construct".toList =
      some (.init .ecb 0#2 (hexBytes 16 0)) ∧
    assemble "new AES256.CBC".toList = some (.init .cbc 2#2 []) ∧
    assemble "KEYEXPAND AES?, 00".toList = some (.keyExpand 3#2 [0x00#8]) ∧
    assemble "ADDROUNDKEY 0011|2233".toList = some (.addRoundKey [0x00#8, 0x11#8, 0x22#8, 0x33#8]) ∧
    assemble "STATUS".toList = some (.status []) ∧
    assemble "SBOX, 5a".toList = some (.sbox [0x5A#8]) ∧ assemble "NOP".toList = none := by decide +kernel

/-- The two example lines of R100, with their responses; and bars that join no two byte strings. -/
theorem test_assemble_response_and_bar :
    assemble "INIT AES128.ECB, 00000000000000000000000000000000   -> OK".toList =
      some (.init .ecb 0#2 (hexBytes 16 0)) ∧
    assemble "ENC 00000000000000000000000000000000                -> OK 66e94bd4ef8a2c3b884cfa59ca342b2e".toList =
      some (.enc (hexBytes 16 0)) ∧
    assemble "ADDROUNDKEY 0|0".toList = none ∧ assemble "ADDROUNDKEY 00||11".toList = none ∧
    assemble "ADDROUNDKEY 00|11|22".toList = none ∧ assemble "SBOX 5|a".toList = none := by decide +kernel

theorem test_responseText :
    String.ofList (responseText ⟨.ok, [0x0E#8]⟩) = "-> OK 0e" ∧
    String.ofList (responseText ⟨.errNotReady, []⟩) = "-> ERR_NOT_READY" := by decide +kernel

/-! ## Platforms (R41) -/

theorem test_platform :
    Platform.step [State.reset] 1 = .fault .noSuchEngine ∧
    (match Platform.step (Platform.send [cbc128, ecb128] 1 (.command 0x30#8 [])) 1 with
      | .next q => q.map State.ready
      | .fault _ => []
      | .refused _ => []) = [true, false] := by
  refine ⟨rfl, by decide +kernel⟩

/-! ## Witnesses: each statement's hypotheses, met together, at boundary values of each clause -/

theorem witness_DecodingFollowsTheThreeTests :
    (0x10#8).toNat / 8 = 2 ∧ (0x17#8).toNat / 8 = 2 ∧ (0x48#8).toNat / 4 = 18 ∧ (0x4B#8).toNat / 4 = 18 ∧
    (∀ cmd ∈ [0x18#8, 0x4C#8, 0xFF#8], cmd.toNat / 8 ≠ 2 ∧ cmd.toNat / 4 ≠ 18 ∧
      cmd ∉ [0x00#8, 0x20#8, 0x21#8, 0x30#8, 0x40#8, 0x41#8, 0x42#8, 0x43#8, 0x44#8, 0x45#8, 0x46#8, 0x47#8,
             0x80#8, 0x81#8, 0x92#8, 0x93#8, 0x99#8, 0x9B#8, 0x9D#8, 0x9E#8]) := by decide

theorem witness_DecodeAndEncodeAgree : decodeBytes [0x17#8, 0x01#8] = .ok (.init .cbc 3#2 [0x01#8]) := by decide

theorem witness_ListedBytesAreIllegalAndChangeNothing :
    (ecb128.withPending [.command 0x9F#8 [0x00#8]]).pending = .command 0x9F#8 [0x00#8] :: [] ∧
    (∀ cmd ∈ [0x01#8, 0x0F#8, 0x18#8, 0x4C#8, 0x90#8, 0x9F#8, 0xA0#8, 0xFF#8], listedIllegal cmd = true) := by decide

theorem witness_StepRunsTheDecodedCommand :
    (ecb128.withPending [.command 0x21#8 [], .reset]).pending = .command 0x21#8 [] :: [.reset] ∧
    decode 0x21#8 [] = .ok (.dec []) ∧ State.reset.pending = [] ∧ ∃ t, exec (.status []) ecb128 = .next t :=
  ⟨rfl, by decide, rfl, _, rfl⟩

theorem witness_ResetClearsEveryElement :
    (cbc128.withPending [.reset]).pending = .reset :: [] ∧
    (cbc128.withPending [.resetDuring 0x20#8 plain0.bytes]).pending = .resetDuring 0x20#8 plain0.bytes :: [] ∧
    ∃ t, exec (.zeroize []) cbc128 = .next t := ⟨rfl, rfl, _, rfl⟩

theorem witness_AfterResetOnlyTheEngineIsMissing :
    (countKey 16).length = 16 ∧ (Instr.keyExpand 2#2 (countKey 32)).isPure = true ∧
    (Instr.keyExpand 2#2 (countKey 32)).wellFormed = true ∧ (Instr.sbox [0xFF#8]).isPure = true ∧
    (Instr.sbox [0xFF#8]).wellFormed = true := by decide

/-- An engine that has been destroyed. -/
def destroyed : State := cbc128.zeroized

theorem destroyed_inv : destroyed.Inv := ⟨fun _ => ⟨rfl, rfl, rfl, rfl, rfl⟩, fun h => by cases h⟩

theorem engine_inv :
    ∀ s ∈ [ecb128, cbc128, cbc256], s.ks ≠ 3#2 ∧
      s.w.toList.take (scheduleWords s.ks) = keyExpansion (s.key.toList.take (keySize s.ks)) ∧
      (∀ i : Fin 32, keySize s.ks ≤ i.val → s.key[i] = 0#8) ∧
      (∀ c : Fin 60, scheduleWords s.ks ≤ c.val → s.w[c] = Word.zero) ∧ (s.ch = .ecb → s.cv = Block.zero) := by
  decide +kernel

theorem ecb128_inv : ecb128.Inv := ⟨fun h => (by cases h), fun _ => engine_inv ecb128 (by simp)⟩
theorem cbc128_inv : cbc128.Inv := ⟨fun h => (by cases h), fun _ => engine_inv cbc128 (by simp)⟩
theorem cbc256_inv : cbc256.Inv := ⟨fun h => (by cases h), fun _ => engine_inv cbc256 (by simp)⟩

theorem witness_StatusReportsReadyAndMode : cbc256.Inv ∧ destroyed.Inv ∧ [0x00#8].length ≠ 0 :=
  ⟨cbc256_inv, destroyed_inv, by decide⟩

theorem witness_InitConstructsTheEngine :
    (∀ n ∈ [0, 15, 17, 24], (countKey n).length ≠ 16 + 8 * (0#2).toNat) ∧
    (countKey 16).length = 16 + 8 * (0#2).toNat ∧ (countKey 24).length = 16 + 8 * (1#2).toNat ∧
    (countKey 32).length = 16 + 8 * (2#2).toNat ∧ (0#2 ≠ 3#2 ∧ 1#2 ≠ 3#2 ∧ 2#2 ≠ 3#2) ∧ cbc128.ready = true ∧
    State.reset.ready = false := by decide

theorem witness_EncEnciphersAndChains :
    (countKey 15).length ≠ 16 ∧ (countKey 17).length ≠ 16 ∧ (countKey 16).length = 16 ∧ State.reset.ready = false ∧
    (ecb128.ready = true ∧ ecb128.ks ≠ 3#2 ∧ ecb128.ch = .ecb) ∧
    (cbc128.ready = true ∧ cbc128.ks ≠ 3#2 ∧ cbc128.ch = .cbc) ∧
    (cbc256.ready = true ∧ cbc256.ks ≠ 3#2 ∧ cbc256.ch = .cbc) := by
  refine ⟨by decide, by decide, by decide, rfl, ⟨rfl, by decide, rfl⟩, ⟨rfl, by decide, rfl⟩, ⟨rfl, by decide, rfl⟩⟩

theorem witness_DecDeciphersAndChains :
    (countKey 15).length ≠ 16 ∧ (countKey 17).length ≠ 16 ∧ (countKey 16).length = 16 ∧ State.reset.ready = false ∧
    (ecb128.ready = true ∧ ecb128.ks ≠ 3#2 ∧ ecb128.ch = .ecb) ∧
    (cbc256.ready = true ∧ cbc256.ks ≠ 3#2 ∧ cbc256.ch = .cbc) := by
  refine ⟨by decide, by decide, by decide, rfl, ⟨rfl, by decide, rfl⟩, ⟨rfl, by decide, rfl⟩⟩

theorem witness_ZeroizeDestroysTheEngine :
    [0x00#8].length ≠ 0 ∧ (2#2 ≠ 3#2 ∧ (countKey 32).length = 16 + 8 * (2#2).toNat) ∧
    ∃ t, exec (.zeroize []) cbc256 = .next t := ⟨by decide, by decide, _, rfl⟩

/-- Both sides of the equivalence occur: a state no run reaches, with `MODE.KS = 3`. -/
theorem witness_OnlyAnIllegalModeStopsACommand :
    exec (.enc plain0.bytes) { cbc128 with ks := 3#2 } = .fault .scheduleIndex ∧
    (isBlockOperation (.enc plain0.bytes) = true ∧ (Instr.enc plain0.bytes).payload.length = 16) := ⟨rfl, rfl, rfl⟩

theorem witness_UnitIdentitiesHold : mul14 ∈ [mul2, mul3, mul9, mul11, mul13, mul14] ∧ mul14 0x80#8 = mul14 0x80#8 :=
  ⟨by simp, rfl⟩

theorem witness_SubstitutionTablesAreAsConstructed : (0x01#8 : Byte) ≠ 0x00#8 ∧ 1 ≤ 9 ∧ 9 < 10 := by decide

theorem witness_FieldMultiplicationIsLinear :
    (14#8 ∈ [2#8, 3#8, 9#8, 11#8, 13#8, 14#8]) ∧ gfMul 14#8 0xFF#8 = gfMul 14#8 0xFF#8 := ⟨by decide, rfl⟩

theorem witness_SboxCommandsLookUpOneByte : ([] : List Byte).length ≠ 1 ∧ [0x00#8, 0x01#8].length ≠ 1 := by decide

theorem witness_MultiplyCommandsMultiplyOneByte :
    ([] : List Byte).length ≠ 1 ∧ [0x01#8, 0x02#8].length ≠ 1 := by decide

theorem witness_SubBytesCommandsSubstituteEachByte :
    (countKey 16).length = 16 ∧ (countKey 15).length ≠ 16 ∧ (countKey 17).length ≠ 16 := by decide

theorem witness_ShiftRowsCommandsRotateEachRow :
    (countKey 16).length = 16 ∧ (countKey 15).length ≠ 16 ∧ (countKey 17).length ≠ 16 ∧ 0 < 4 ∧ 3 < 4 := by decide

theorem witness_TransposeCommandExchangesRowsAndColumns :
    (countKey 16).length = 16 ∧ (countKey 15).length ≠ 16 ∧ (countKey 17).length ≠ 16 ∧ 3 < 4 ∧ 15 < 16 := by decide

theorem witness_MixColumnsCommandsMultiplyByTheirMatrix :
    (countKey 16).length = 16 ∧ (countKey 15).length ≠ 16 ∧ (countKey 17).length ≠ 16 ∧ 0 < 4 ∧ 3 < 4 := by decide

theorem witness_AddRoundKeyCommandXorsThePayloadKey :
    (countKey 32).length = 32 ∧ (countKey 16).length ≠ 32 ∧ (countKey 33).length ≠ 32 ∧ 15 < 16 := by decide

theorem witness_KeyExpansionSatisfiesTheRecurrence :
    ∀ n ∈ [4, 6, 8], (countKey (4 * n)).length = 4 * n ∧ n - 1 < n ∧ n < 4 * (n + 7) ∧
      n ≤ 4 * (n + 7) - 1 ∧ 4 * (n + 7) - 1 < 4 * (n + 7) := by decide

/-- The first and last byte of the 44 words of a schedule, and the first and last index of a round constant. -/
theorem witness_WordFunctionsAndRoundKeysAreByteWise :
    (0 < 4 ∧ 4 * 0 + 0 < (keyExpansion (countKey 16)).length) ∧
    (3 < 4 ∧ 4 * 10 + 3 < (keyExpansion (countKey 16)).length) ∧ (1 ≤ 1 ∧ 1 ≤ 10) ∧ (1 ≤ 10 ∧ 10 ≤ 10) := by
  decide +kernel

theorem witness_KeyExpandAnswersTheSchedule :
    (0#2 ≠ 3#2 ∧ (countKey 15).length ≠ 16 + 8 * (0#2).toNat) ∧ (2#2 ≠ 3#2 ∧ (countKey 24).length ≠ 16 + 8 * (2#2).toNat) ∧
    (countKey 16).length = 16 + 8 * (0#2).toNat ∧ (countKey 32).length = 16 + 8 * (2#2).toNat := by decide

theorem witness_BlockFunctionsRunTheirRounds : 1 ≤ 10 ∧ 1 ≤ 14 ∧ (1 ≤ 1 ∧ 1 ≤ 10 - 1) ∧ (1 ≤ 13 ∧ 13 ≤ 14 - 1) := by
  decide

theorem witness_EcbIsStatelessAndInvertible :
    ecb128.ready = true ∧ ecb128.ks ≠ 3#2 ∧ ecb128.ch = .ecb ∧
    (ecb128.withPending [.reset]).ready = true ∧ (ecb128.withPending [.reset]).ks = ecb128.ks ∧
    (ecb128.withPending [.reset]).ch = .ecb ∧ (ecb128.withPending [.reset]).w = ecb128.w :=
  ⟨rfl, by decide, rfl, rfl, rfl, rfl, rfl⟩

theorem init_ok (s : State) (h : s.ready = false) :
    ∃ t, exec (.init .cbc 0#2 (countKey 16)) s = .next t ∧ t.response = some ⟨.ok, []⟩ := by
  obtain ⟨hm, _⟩ | ⟨_, hl, _⟩ | ⟨_, _, hr, _⟩ | ⟨_, _, _, e⟩ := execInit_cases .cbc 0#2 (countKey 16) s
  · exact absurd hm (by decide)
  · exact absurd (by decide) hl
  · rw [h] at hr; cases hr
  · exact ⟨_, e, rfl⟩

/-- A mixed run on a CBC engine: `ENC`, a pure command, `DEC`, a failed command. -/
theorem witness_ChainingValueIsTheLastCiphertext :
    cbc128.ready = true ∧ cbc128.ch = .cbc ∧
    (∀ i ∈ [Instr.enc plain0.bytes, .status [], .dec plain1.bytes, .enc []], ∀ p, i ≠ .zeroize p) ∧
    (∃ q, runCommands [.enc plain0.bytes, .status [], .dec plain1.bytes, .enc []] cbc128 = some q) ∧
    (State.reset.ready = false ∧ ∃ t, exec (.init .cbc 0#2 (countKey 16)) State.reset = .next t ∧
      t.response = some ⟨.ok, []⟩) := by
  exact ⟨rfl, rfl, by simp, Option.isSome_iff_exists.1 (by decide +kernel), rfl, init_ok State.reset rfl⟩

theorem cbc128_fresh : cbc128.FreshCbc := ⟨rfl, by decide, rfl, rfl⟩
theorem cbc256_fresh : cbc256.FreshCbc := ⟨rfl, by decide, rfl, rfl⟩

theorem witness_CbcEncryptionInClosedForm : cbc256.FreshCbc ∧ 0 < [plain0, plain1].length ∧ 1 < [plain0, plain1].length :=
  ⟨cbc256_fresh, by decide, by decide⟩

theorem witness_CbcDecryptionInClosedForm : cbc256.FreshCbc ∧ 0 < [plain0, plain1].length ∧ 1 < [plain0, plain1].length :=
  ⟨cbc256_fresh, by decide, by decide⟩

theorem witness_CbcRoundTrip :
    (0#2 ≠ 3#2 ∧ (countKey 16).length = 16 + 8 * (0#2).toNat) ∧ (2#2 ≠ 3#2 ∧ (countKey 32).length = 16 + 8 * (2#2).toNat) ∧
    State.reset.ready = false ∧ cbc128.zeroized.ready = false := by decide

theorem four_equal_blocks :
    ∃ cs, ciphertexts [plain0, plain0, plain0, plain0] cbc128 = some cs ∧ cs.getD (3 - 2) Block.zero = Block.zero := by
  have h : (ciphertexts [plain0, plain0, plain0, plain0] cbc128).any (fun cs => cs.getD 1 Block.zero = Block.zero) = true := by
    decide +kernel
  obtain ⟨cs, hc, hz⟩ := (Option.any_eq_true _ _).1 h
  exact ⟨cs, hc, of_decide_eq_true hz⟩

/-- Streams `[p, p]` and `[p, p, p, p]` (item 2, at block 1 and at block 3 after the zero block 1), `[p, q, p]` against `[p, p, q]` (items 1, 3, 5), `[p, q]` against `[p, p]` (item 4). -/
theorem witness_CbcConsequences :
    cbc128.FreshCbc ∧ (∃ cs, ciphertexts [plain0, plain0] cbc128 = some cs) ∧
    (∃ cs, ciphertexts [plain0, plain0, plain0, plain0] cbc128 = some cs ∧ cs.getD (3 - 2) Block.zero = Block.zero) ∧
    (∃ cs, ciphertexts [plain0, plain1, plain0] cbc128 = some cs) ∧
    (∃ cs, ciphertexts [plain0, plain0, plain1] cbc128 = some cs) ∧
    ([plain0, plain1, plain0].take 3).Perm ([plain0, plain0, plain1].take 3) ∧ plain1 ≠ plain0 ∧
    [plain0, plain1].take 1 = [plain0, plain0].take 1 ∧ [plain0, plain1].length = [plain0, plain0].length ∧
    [plain0, plain1].getD 1 Block.zero ≠ [plain0, plain0].getD 1 Block.zero ∧
    (∀ j, j ≠ 1 → [plain0, plain1].getD j Block.zero = [plain0, plain0].getD j Block.zero) := by
  refine ⟨cbc128_fresh, Option.isSome_iff_exists.1 (by decide +kernel), four_equal_blocks, Option.isSome_iff_exists.1 (by decide +kernel),
    Option.isSome_iff_exists.1 (by decide +kernel), (List.Perm.swap plain0 plain1 []).cons plain0, by decide, rfl, rfl,
    by decide, ?_⟩
  intro j hj
  match j with
  | 0 => rfl
  | 1 => exact absurd rfl hj
  | _ + 2 => rfl

theorem witness_OneChainServesBothDirections : cbc128.ready = true ∧ cbc128.ks ≠ 3#2 ∧ cbc128.ch = .cbc :=
  ⟨rfl, by decide, rfl⟩

/-- A state whose next step enciphers a block in CBC. -/
def busy : State := cbc128.withPending [.command 0x20#8 plain0.bytes]

theorem busy_step : ∃ t, step busy = .next t ∧ t.ready = true ∧ t.response ≠ none := by
  obtain ⟨h, _⟩ | ⟨_, h, _⟩ | ⟨_, _, _, h, _⟩ | ⟨_, _, _, _, h, hd, _⟩ | ⟨_, _, _, _, h, hd, e⟩ := step_cases busy
  · cases h
  · cases h
  · cases h
  · cases h; cases hd
  · cases h; cases hd
    exact ⟨_, e.trans (execEnc_cbc (s := cbc128.withPending []) plain0 rfl (by decide) rfl), rfl, by simp⟩

theorem witness_EveryStepKeepsTheInvariant :
    (busy.Inv ∧ ∃ t, step busy = .next t) ∧ (destroyed.Inv ∧ ∃ t, step destroyed = .next t) :=
  ⟨⟨cbc128_inv, busy_step.imp fun _ h => h.1⟩, destroyed_inv, _, rfl⟩

theorem witness_NoStepStopsUnderTheInvariant : busy.Inv ∧ destroyed.Inv := ⟨cbc128_inv, destroyed_inv⟩

theorem witness_WellFormedCommandsComplete :
    ((Instr.enc plain0.bytes).wellFormed = true ∧ cbc256.ready = true ∧ cbc256.ks ≠ 3#2) ∧
    ((Instr.init .cbc 1#2 (countKey 24)).wellFormed = true ∧ State.reset.ready = false) ∧
    (Instr.gfMul2 [0x80#8]).wellFormed = true := by
  refine ⟨⟨by decide, rfl, by decide⟩, ⟨by decide, rfl⟩, by decide⟩

theorem witness_ErrorsWriteNoState :
    (∃ t, exec (.enc []) cbc128 = .next t ∧ ∃ r, t.response = some r ∧ r.status ≠ .ok) ∧
    ((cbc128.withPending [.command 0xFF#8 []]).pending = .command 0xFF#8 [] :: [] ∧
      decode 0xFF#8 [] = .error (.illegalCommand 0xFF#8)) :=
  ⟨⟨_, rfl, _, rfl, by decide⟩, rfl, by decide⟩

theorem witness_ErrorsAreReportedByPriority :
    (∃ t r, exec (.init .ecb 3#2 (countKey 5)) ecb128 = .next t ∧ t.response = some r) ∧
    (∃ t, (ecb128.withPending [.command 0x18#8 []]).pending = .command 0x18#8 [] :: [] ∧
      step (ecb128.withPending [.command 0x18#8 []]) = .next t) ∧
    (ecb128.ready = true ∧ (countKey 5).length = 5 ∧ (countKey 15).length = 15 ∧ State.reset.ready = false) :=
  ⟨⟨_, _, rfl, rfl⟩, ⟨_, rfl, rfl⟩, rfl, by decide, by decide, rfl⟩

theorem witness_ResponsesHaveTheirFormat :
    (∃ t r, exec (.status []) ecb128 = .next t ∧ t.response = some r ∧ r.status = .ok) ∧
    (∃ t r, exec (.status [0x00#8]) ecb128 = .next t ∧ t.response = some r ∧ r.status ≠ .ok) :=
  ⟨⟨_, _, rfl, rfl, rfl⟩, ⟨_, _, rfl, rfl, by decide⟩⟩

theorem witness_PureCommandsIgnoreTheEngine :
    (Instr.addRoundKey (countKey 32)).isPure = true ∧ (Instr.keyExpand 3#2 []).isPure = true ∧
    (Instr.gfMul14 [0x00#8]).isPure = true := by decide

/-- Two engines of one mode with different keys. -/
theorem witness_SecretsReachOnlyTheBlockOutputs :
    cbc128.SamePublic (zeroEngine .cbc) ∧
    ((∃ t, exec (.status []) cbc128 = .next t) ∧ ∃ t, exec (.status []) (zeroEngine .cbc) = .next t) ∧
    ((∃ t, exec (.enc plain0.bytes) cbc128 = .next t) ∧ ∃ t, exec (.enc plain0.bytes) (zeroEngine .cbc) = .next t) ∧
    isBlockOperation (.status []) = false :=
  ⟨⟨rfl, rfl, rfl⟩, ⟨⟨_, rfl⟩, _, rfl⟩,
    ⟨⟨_, execEnc_cbc (s := cbc128) plain0 rfl (by decide) rfl⟩, _,
      execEnc_cbc (s := zeroEngine .cbc) plain0 rfl (by decide) rfl⟩, rfl⟩

theorem witness_ModeKeyAndScheduleAreImmutable :
    busy.ready = true ∧ ∃ t, step busy = .next t ∧ t.ready = true :=
  ⟨rfl, busy_step.imp fun _ h => ⟨h.1, h.2.1⟩⟩

/-- `READY` set by `INIT`, and cleared by `ZEROIZE` and by a reset. -/
theorem witness_ReadyChangesOnlyByInitZeroizeAndReset :
    (∃ t, step (State.reset.withPending [.command 0x14#8 (countKey 16)]) = .next t ∧ State.reset.ready = false ∧
      t.ready = true) ∧
    (∃ t, step (cbc128.withPending [.command 0x30#8 []]) = .next t ∧ cbc128.ready = true ∧ t.ready = false) ∧
    (∃ t, step (cbc128.withPending [.reset]) = .next t ∧ cbc128.ready = true ∧ t.ready = false) := by
  refine ⟨?_, ⟨_, rfl, rfl, rfl⟩, ⟨_, rfl, rfl, rfl⟩⟩
  obtain ⟨t, ht, _⟩ := init_ok State.reset rfl
  have hd : decode 0x14#8 (countKey 16) = .ok (.init .cbc 0#2 (countKey 16)) := by decide
  have hs : step (State.reset.withPending [.command 0x14#8 (countKey 16)]) = .next t := by
    rw [step, nextEvent_cons rfl]
    simp only [hd]
    exact ht
  refine ⟨t, hs, rfl, ?_⟩
  obtain ⟨h, _⟩ | ⟨_, h, _⟩ | ⟨_, _, h, _⟩ | ⟨_, _, _, e⟩ := execInit_cases .cbc 0#2 (countKey 16) State.reset
  · exact absurd h (by decide)
  · exact absurd (by decide) h
  · cases h
  · cases ht.symm.trans e
    rfl

/-- One witness for each row of the lifecycle. -/
theorem witness_LifecycleOfAnEngine :
    destroyed.Inv ∧ cbc128.Inv ∧
    (destroyed.ready = false ∧ ∃ t r, exec (.init .cbc 0#2 (countKey 16)) destroyed = .next t ∧
      t.response = some r ∧ r.status = .ok) ∧
    (∃ t r, exec (.zeroize []) destroyed = .next t ∧ t.response = some r) ∧
    (cbc128.ready = true ∧ ∃ t r, exec (.enc plain0.bytes) cbc128 = .next t ∧ t.response = some r ∧ r.status = .ok) ∧
    (∃ t r, exec (.zeroize []) cbc128 = .next t ∧ t.response = some r ∧ r.status = .ok) ∧
    (∃ t r, exec (.status []) cbc128 = .next t ∧ t.response = some r) ∧
    (∃ t r, exec (.dec []) cbc128 = .next t ∧ t.response = some r ∧ r.status ≠ .ok) := by
  obtain ⟨t, ht, ho⟩ := init_ok destroyed rfl
  exact ⟨destroyed_inv, cbc128_inv, ⟨rfl, t, _, ht, ho, rfl⟩, ⟨_, _, rfl, rfl⟩,
    ⟨rfl, _, _, execEnc_cbc (s := cbc128) plain0 rfl (by decide) rfl, rfl, rfl⟩, ⟨_, _, rfl, rfl, rfl⟩,
    ⟨_, _, rfl, rfl⟩, ⟨_, _, rfl, rfl, by decide⟩⟩

theorem witness_OtherCommandsAreIdempotent :
    (isBlockOperation (.zeroize []) = false ∧ ∃ t, exec (.zeroize []) cbc128 = .next t) ∧
    (ecb128.ch = .ecb ∧ ∃ t, exec (.enc plain0.bytes) ecb128 = .next t) ∧
    (∃ t, exec (.init .ecb 0#2 []) ecb128 = .next t ∧ t.response ≠ some ⟨.ok, []⟩) :=
  ⟨⟨rfl, _, rfl⟩, ⟨rfl, _, execEnc_ecb (s := ecb128) plain0 rfl (by decide) rfl⟩, _, rfl, by decide⟩

theorem witness_InstancesAreIndependent :
    (∃ q, Platform.step [cbc128, State.reset] 1 = .next q) ∧ (0 : Nat) ≠ 1 := ⟨⟨_, rfl⟩, by decide⟩

theorem witness_PaddingIsAddedAndRemovedByTheLastByte :
    (streamPlain 0).length < 16 ∧ (streamPlain 15).length < 16 ∧ ((streamPlain 15).length ≤ 15 ∧ 15 < 16) ∧
    (∀ v ∈ [0x00#8, 0x01#8, 0x0F#8, 0x10#8, 0x11#8, 0xFF#8], (List.replicate 15 0x00#8 ++ [v]).length = 16 ∧
      (List.replicate 15 0x00#8 ++ [v]).getD 15 0#8 = v) ∧
    (1 ≤ 1 ∧ 1 ≤ 15) ∧ (0x11#8).toNat > 16 ∧ (0xFF#8).toNat > 16 := by decide

theorem witness_EncryptStreamIsOneEncPerPaddedBlock :
    (zeroEngine .cbc).ready = true ∧ (zeroEngine .cbc).ks ≠ 3#2 ∧ State.reset.ready = false :=
  ⟨rfl, by decide, rfl⟩

theorem witness_ShortCiphertextIsAFramingError :
    (zeroEngine .cbc).ready = true ∧ (zeroEngine .cbc).ks ≠ 3#2 ∧
    (∀ n ∈ [1, 15, 17, 33], (streamPlain n).length % 16 ≠ 0) := ⟨rfl, by decide, by decide⟩

theorem witness_StreamRoundTrip :
    (countKey 32).length = keySize KeySize.aes256.field ∧ State.reset.ready = false ∧
    ∃ s, issue (CipherMode.new ⟨.aes256, .cbc⟩ (countKey 32)) State.reset = .next s := by
  refine ⟨by decide, rfl, ?_⟩
  have hx : (match issue (CipherMode.new ⟨.aes256, .cbc⟩ (countKey 32)) State.reset with
    | .next _ => true
    | .fault _ => false
    | .refused _ => false) = true := by decide +kernel
  split at hx
  · rename_i h; exact ⟨_, h⟩
  · cases hx
  · cases hx

theorem witness_GeneratedKeysConstructAnEngine :
    State.reset.ready = false ∧ generateKey .aes192 (countKey 30) = .ok (countKey 24) ∧
    (countKey 15).length < keySize KeySize.aes128.field := by
  refine ⟨rfl, ?_, by decide⟩
  rw [generateKey, if_neg (by decide)]
  exact congrArg Except.ok (by decide)

end Sys2Proof.Tests
end

/-! What a step can do to the elements of R20, and the claims of 10_state.md. -/

namespace Sys2Proof.Machine

open Sys2Proof

/-! ## The engine part of a state -/

@[simp] theorem State.SameEngine.refl (s : State) : s.SameEngine s := ⟨rfl, rfl, rfl, rfl, rfl, rfl⟩

/-- The invariant speaks of the elements of R20 only. -/
theorem State.Inv.of_sameEngine {s t : State} (hs : s.Inv) (h : s.SameEngine t) : t.Inv := by
  obtain ⟨hready, hks, hch, hkey, hw, hcv⟩ := h
  simpa only [State.Inv, State.ZeroWhenNotReady, State.ScheduledWhenReady, hready, hks, hch, hkey, hw, hcv] using hs

/-! ## A payload comes from the command it was sent with -/

theorem f0Table_payload (row : Byte × (List Byte → Instr)) (h : row ∈ f0Table) (inp : List Byte) :
    (row.2 inp).payload = inp := by
  simp only [f0Table, List.mem_cons, List.not_mem_nil, or_false] at h
  rcases h with
    rfl | rfl | rfl | rfl | rfl | rfl | rfl | rfl | rfl | rfl | rfl | rfl | rfl | rfl | rfl | rfl | rfl | rfl | rfl |
    rfl <;> rfl

/-- Decoding hands the payload on unchanged (30_encoding.md rule R80). -/
theorem payload_of_decode {cmd : Byte} {inp : List Byte} {i : Instr} (h : decode cmd inp = .ok i) :
    i.payload = inp := by
  unfold decode at h
  split at h
  · cases h; rfl
  · split at h
    · cases h; rfl
    · split at h
      next row hrow => cases h; exact f0Table_payload row (List.mem_of_find?_eq_some hrow) inp
      next => cases h

/-! ## What happens to the engine -/

/-- What a command that goes on does to the elements of R20: nothing, a new chaining value in CBC, a successful `INIT`
or a successful `ZEROIZE`. -/
theorem exec_engine_cases {i : Instr} {s t : State} (h : exec i s = .next t) :
    s.SameEngine t ∨
    (∃ v, s.ready = true ∧ s.ch = .cbc ∧ (s.withCv v).SameEngine t) ∨
    (∃ ch ks inp, i = .init ch ks inp ∧ ks ≠ 3#2 ∧ inp.length = 16 + 8 * ks.toNat ∧ s.ready = false ∧
      (s.constructed ch ks inp (keyExpansion inp)).SameEngine t ∧ t.response = some ⟨.ok, []⟩) ∨
    (i = .zeroize [] ∧ State.reset.SameEngine t ∧ t.response = some ⟨.ok, []⟩) := by
  obtain ⟨r, _, e⟩ | ⟨ch, ks, inp, hi, h3, hl, hr, e⟩ | ⟨b, _, hr, _, hc, e⟩ | ⟨b, _, hr, _, hc, e⟩ | ⟨hi, e⟩ |
    ⟨_, _, _, e⟩ := exec_cases i s <;> rw [e] at h <;> cases h
  · exact .inl (.refl s)
  · exact .inr (.inr (.inl ⟨ch, ks, inp, hi, h3, hl, hr, .refl _, rfl⟩))
  · exact .inr (.inl ⟨_, hr, hc, .refl _⟩)
  · exact .inr (.inl ⟨_, hr, hc, .refl _⟩)
  · exact .inr (.inr (.inr ⟨hi, .refl _, rfl⟩))

/-- The step took a `ZEROIZE` that answered `OK`, or a reset. -/
def Cleared (s t : State) : Prop :=
  (∃ cmd es, s.pending = .command cmd [] :: es ∧ decode cmd [] = .ok (.zeroize []) ∧
    t.response = some ⟨.ok, []⟩) ∨
  (∃ es, s.pending = .reset :: es) ∨ ∃ cmd inp es, s.pending = .resetDuring cmd inp :: es

/-- What a step does to the elements of R20, and which event made it do so. -/
theorem step_engine_cases {s t : State} (h : step s = .next t) :
    s.SameEngine t ∨
    (∃ v, s.ready = true ∧ s.ch = .cbc ∧ (s.withCv v).SameEngine t) ∨
    (∃ cmd inp es ch ks, s.pending = .command cmd inp :: es ∧ decode cmd inp = .ok (.init ch ks inp) ∧ ks ≠ 3#2 ∧
      inp.length = 16 + 8 * ks.toNat ∧ s.ready = false ∧
      (s.constructed ch ks inp (keyExpansion inp)).SameEngine t ∧ t.response = some ⟨.ok, []⟩) ∨
    (Cleared s t ∧ State.reset.SameEngine t) := by
  obtain ⟨_, e⟩ | ⟨es, hp, e⟩ | ⟨cmd, inp, es, hp, e⟩ | ⟨cmd, inp, es, _, _, _, e⟩ | ⟨cmd, inp, es, i, hp, hd, e⟩ :=
    step_cases s <;> rw [e] at h
  · cases h; exact .inl (.refl s)
  · cases h; exact .inr (.inr (.inr ⟨.inr (.inl ⟨es, hp⟩), .refl _⟩))
  · cases h; exact .inr (.inr (.inr ⟨.inr (.inr ⟨cmd, inp, es, hp⟩), .refl _⟩))
  · cases h; exact .inl (.refl s)
  · have hpay := payload_of_decode hd
    obtain hsame | hcv | ⟨ch, ks, p, rfl, h3, hl, hr, ht, hresp⟩ | ⟨rfl, ht, hresp⟩ := exec_engine_cases h
    · exact .inl hsame
    · exact .inr (.inl hcv)
    · obtain rfl : p = inp := hpay
      exact .inr (.inr (.inl ⟨cmd, p, es, ch, ks, hp, hd, h3, hl, hr, ht, hresp⟩))
    · obtain rfl : [] = inp := hpay
      exact .inr (.inr (.inr ⟨.inl ⟨cmd, es, hp, hd, hresp⟩, ht⟩))

/-! ## The invariant -/

theorem State.reset_inv : State.reset.Inv :=
  ⟨fun _ => ⟨rfl, rfl, rfl, rfl, rfl⟩, fun h => by cases h⟩

/-- In CBC the invariant leaves the chaining value free. -/
theorem State.Inv.withCv {s : State} (hs : s.Inv) (hr : s.ready = true) (hc : s.ch = .cbc) (v : Block) :
    (s.withCv v).Inv := by
  obtain ⟨h3, hsched, hkey, hw, _⟩ := hs.2 hr
  refine ⟨fun h => ?_, fun _ => ⟨h3, hsched, hkey, hw, fun h => ?_⟩⟩
  · simp [hr] at h
  · simp [hc] at h

/-- A list written to the front of a longer vector is read back whole. -/
theorem take_ofFn_getD {α : Type} {n : Nat} (l : List α) (d : α) (h : l.length ≤ n) :
    (Vector.ofFn fun i : Fin n => l.getD i.val d).toList.take l.length = l := by
  apply List.ext_getElem
  · simpa using h
  · intro i hi hl
    simp [List.getElem?_eq_getElem hl]

/-- A key of the right length is expanded to as many words as its mode uses (10_state.md rule R21). -/
theorem keyExpansion_length_of_mode {ks : BitVec 2} {key : List Byte} (hl : key.length = keySize ks) :
    (keyExpansion key).length = scheduleWords ks := by
  rw [keyExpansion_length (keyWordCount ks) key hl, scheduleWords, rounds]

/-- The state a successful `INIT` leaves satisfies the invariant (43_block_cipher_engine.md rule R196). -/
theorem State.constructed_inv (s : State) (ch : Chaining) {ks : BitVec 2} {key : List Byte} (h3 : ks ≠ 3#2)
    (hl : key.length = 16 + 8 * ks.toNat) : (s.constructed ch ks key (keyExpansion key)).Inv := by
  obtain ⟨hsize, -, hwords⟩ := mode_parameters ks
  have hlt : ks.toNat < 3 := legal_mode_lt ks h3
  have hk : key.length = keySize ks := hl.trans hsize.symm
  have hw : (keyExpansion key).length = scheduleWords ks := keyExpansion_length_of_mode hk
  refine ⟨fun h => by simp at h, fun _ => ⟨h3, ?_, fun i hi => ?_, fun c hc => ?_, fun _ => rfl⟩⟩
  · have hkey : (s.constructed ch ks key (keyExpansion key)).key.toList.take (keySize ks) = key :=
      hk ▸ take_ofFn_getD key 0#8 (by omega)
    have hsched : (s.constructed ch ks key (keyExpansion key)).w.toList.take (scheduleWords ks) = keyExpansion key :=
      hw ▸ take_ofFn_getD (keyExpansion key) Word.zero (by omega)
    rw [State.constructed_ks, hsched, hkey]
  · have hout : key.length ≤ i.val := hk.le.trans hi
    simp [hout]
  · have hout : (keyExpansion key).length ≤ c.val := hw.le.trans hc
    simp [hout]

/-- Settles O41: the reset state is the all-zero unconstructed engine. -/
theorem resetSatisfiesTheInvariant : Obligations.ResetSatisfiesTheInvariant := State.reset_inv

/-- Settles O42, by the four things a step can do to the engine. -/
theorem everyStepKeepsTheInvariant : Obligations.EveryStepKeepsTheInvariant := by
  intro s t hs h
  obtain hsame | ⟨v, hr, hc, ht⟩ | ⟨_, _, _, ch, ks, _, _, h3, hl, _, ht, _⟩ | ⟨_, ht⟩ := step_engine_cases h
  · exact hs.of_sameEngine hsame
  · exact (hs.withCv hr hc v).of_sameEngine ht
  · exact (s.constructed_inv ch h3 hl).of_sameEngine ht
  · exact State.reset_inv.of_sameEngine ht

/-- Settles O50: a constructed engine that stays constructed gets at most a new chaining value, since `INIT` needs an
unconstructed engine and clearing leaves one. -/
theorem modeKeyAndScheduleAreImmutable : Obligations.ModeKeyAndScheduleAreImmutable := by
  intro s t hs h ht
  obtain ⟨_, hks, hch, hkey, hw, _⟩ | ⟨v, _, _, _, hks, hch, hkey, hw, _⟩ | ⟨_, _, _, _, _, _, _, _, _, hr, _⟩ |
    ⟨_, hr, _⟩ := step_engine_cases h
  · exact ⟨hks.symm, hch.symm, hkey.symm, hw.symm⟩
  · exact ⟨hks.symm, hch.symm, hkey.symm, hw.symm⟩
  · cases hs.symm.trans hr
  · cases hr.trans ht

/-- Settles O51: of the four things a step can do, only a successful `INIT` sets `READY` and only clearing clears it. -/
theorem readyChangesOnlyByInitZeroizeAndReset : Obligations.ReadyChangesOnlyByInitZeroizeAndReset := by
  intro s t h
  obtain ⟨hr, _⟩ | ⟨v, _, _, hr, _⟩ | ⟨cmd, inp, es, ch, ks, hp, hd, _, _, hs, ⟨ht, _⟩, hresp⟩ | ⟨hclear, ht, _⟩ :=
    step_engine_cases h
  · exact ⟨fun h0 h1 => (nomatch h0.symm.trans (hr.trans h1)), fun h1 h0 => nomatch h1.symm.trans (hr.trans h0)⟩
  · exact ⟨fun h0 h1 => (nomatch h0.symm.trans (hr.trans h1)), fun h1 h0 => nomatch h1.symm.trans (hr.trans h0)⟩
  · exact ⟨fun _ _ => ⟨cmd, inp, es, ch, ks, hp, hd, hresp⟩, fun h1 _ => nomatch h1.symm.trans hs⟩
  · exact ⟨fun _ h1 => (nomatch ht.trans h1), fun _ _ => hclear⟩

/-! ## What the answers of two engines of the same `READY` and `MODE` have in common -/

/-- If both results go on, the two responses look the same to `view`, and the two states have the same `READY` and
`MODE`. -/
def AnswersAlike {α : Type} (view : Response → α) (a b : Result) : Prop :=
  ∀ s t, a = .next s → b = .next t → s.response.map view = t.response.map view ∧ s.SamePublic t

section

variable {α : Type} {view : Response → α} {s u : State}

theorem AnswersAlike.withResponse {q r : Response} (h : s.SamePublic u) (hv : view q = view r) :
    AnswersAlike view (.next (s.withResponse (some q))) (.next (u.withResponse (some r))) := by
  rintro _ _ ⟨⟩ ⟨⟩
  exact ⟨congrArg some hv, h⟩

theorem raiseErr_alike (code : Status) (h : s.SamePublic u) :
    AnswersAlike view (raiseErr code s) (raiseErr code u) := .withResponse h rfl

theorem respond_alike (out : List Byte) (h : s.SamePublic u) :
    AnswersAlike view (respond out s) (respond out u) := .withResponse h rfl

/-- The status of an `OK` answer says nothing of its output. -/
theorem respond_status_alike (out out' : List Byte) (h : s.SamePublic u) :
    AnswersAlike Response.status (respond out s) (respond out' u) := .withResponse h rfl

theorem checkLength_alike (n : Nat) (inp : List Byte) {k k' : Result} (h : s.SamePublic u)
    (hk : AnswersAlike view k k') : AnswersAlike view (checkLength n inp s k) (checkLength n inp u k') := by
  unfold checkLength
  split
  · exact raiseErr_alike _ h
  · exact hk

theorem checkKey_alike (ks : BitVec 2) (inp : List Byte) {k k' : Result} (h : s.SamePublic u)
    (hk : AnswersAlike view k k') : AnswersAlike view (checkKey ks inp s k) (checkKey ks inp u k') := by
  unfold checkKey
  split
  · exact raiseErr_alike _ h
  · split
    · exact raiseErr_alike _ h
    · exact hk

/-- The checks of a block command read only `READY` and `MODE.KS` of the engine. -/
theorem checkBlock_alike (inp : List Byte) {k k' : Result} (h : s.SamePublic u) (hk : AnswersAlike view k k') :
    AnswersAlike view (checkBlock inp s k) (checkBlock inp u k') := by
  refine checkLength_alike 16 inp h ?_
  obtain ⟨hready, hks, _⟩ := id h
  rw [hready, hks]
  split
  · exact raiseErr_alike _ h
  · split
    · rintro _ _ ⟨⟩
    · exact hk

theorem pureCommand_alike (n : Nat) (f : List Byte → List Byte) (inp : List Byte) (h : s.SamePublic u) :
    AnswersAlike view (pureCommand n f inp s) (pureCommand n f inp u) :=
  checkLength_alike n inp h (respond_alike _ h)

theorem blockCommand_alike (f : Block → Block) (inp : List Byte) (h : s.SamePublic u) :
    AnswersAlike view (blockCommand f inp s) (blockCommand f inp u) := pureCommand_alike 16 _ inp h

theorem unitCommand_alike (f : Byte → Byte) (inp : List Byte) (h : s.SamePublic u) :
    AnswersAlike view (unitCommand f inp s) (unitCommand f inp u) := pureCommand_alike 1 _ inp h

/-- The status register is made of `READY` and `MODE` (10_state.md rule R33). -/
theorem statusRegister_eq_of_samePublic (h : s.SamePublic u) : statusRegister s = statusRegister u := by
  obtain ⟨hready, hks, hch⟩ := h
  rw [statusRegister, statusRegister, hready, hks, hch]

theorem execStatus_alike (inp : List Byte) (h : s.SamePublic u) :
    AnswersAlike view (execStatus inp s) (execStatus inp u) := by
  unfold execStatus
  rw [statusRegister_eq_of_samePublic h]
  exact checkLength_alike 0 inp h (respond_alike _ h)

theorem execInit_alike (ch : Chaining) (ks : BitVec 2) (inp : List Byte) (h : s.SamePublic u) :
    AnswersAlike view (execInit ch ks inp s) (execInit ch ks inp u) := by
  refine checkKey_alike ks inp h ?_
  obtain ⟨hready, _⟩ := id h
  rw [hready]
  split
  · exact raiseErr_alike _ h
  · exact respond_alike [] ⟨rfl, rfl, rfl⟩

theorem execEnc_alike (inp : List Byte) (h : s.SamePublic u) :
    AnswersAlike Response.status (execEnc inp s) (execEnc inp u) := by
  refine checkBlock_alike inp h ?_
  obtain ⟨_, _, hch⟩ := id h
  rw [hch]
  cases u.ch <;> exact respond_status_alike _ _ h

theorem execDec_alike (inp : List Byte) (h : s.SamePublic u) :
    AnswersAlike Response.status (execDec inp s) (execDec inp u) := by
  refine checkBlock_alike inp h ?_
  obtain ⟨_, _, hch⟩ := id h
  rw [hch]
  cases u.ch <;> exact respond_status_alike _ _ h

theorem execZeroize_alike (inp : List Byte) (h : s.SamePublic u) :
    AnswersAlike view (execZeroize inp s) (execZeroize inp u) :=
  checkLength_alike 0 inp h (respond_alike [] ⟨rfl, rfl, rfl⟩)

/-- Every command but `ENC` and `DEC` answers alike on two engines of the same `READY` and `MODE`. -/
theorem exec_alike (i : Instr) (hi : isBlockOperation i = false) (h : s.SamePublic u) :
    AnswersAlike view (exec i s) (exec i u) := by
  cases i with
  | enc _ => cases hi
  | dec _ => cases hi
  | status inp => exact execStatus_alike inp h
  | init ch ks inp => exact execInit_alike ch ks inp h
  | zeroize inp => exact execZeroize_alike inp h
  | addRoundKey inp =>
    rw [exec_addRoundKey, exec_addRoundKey]
    exact pureCommand_alike 32 _ inp h
  | keyExpand ks inp => exact checkKey_alike ks inp h (respond_alike _ h)
  | subBytes inp | invSubBytes inp | shiftRows inp | invShiftRows inp | mixColumns inp | invMixColumns inp
  | transpose inp => exact blockCommand_alike _ inp h
  | sbox inp | invSbox inp | gfMul2 inp | gfMul3 inp | gfMul9 inp | gfMul11 inp | gfMul13 inp | gfMul14 inp =>
    exact unitCommand_alike _ inp h

/-- Every command answers with the same status on two engines of the same `READY` and `MODE`. -/
theorem exec_status_alike (i : Instr) (h : s.SamePublic u) :
    AnswersAlike Response.status (exec i s) (exec i u) := by
  cases hi : isBlockOperation i with
  | false => exact exec_alike i hi h
  | true =>
    cases i with
    | enc inp => exact execEnc_alike inp h
    | dec inp => exact execDec_alike inp h
    | _ => cases hi

end

/-- Settles O49: each check and each answer reads `READY` and `MODE` only, but for the output block of `ENC` and
`DEC`. -/
theorem secretsReachOnlyTheBlockOutputs : Obligations.SecretsReachOnlyTheBlockOutputs := by
  intro i s u s' u' h hs hu
  refine ⟨fun hi => ?_, exec_status_alike i h s' u' hs hu⟩
  obtain ⟨hresp, _⟩ := exec_alike (view := id) i hi h s' u' hs hu
  simpa using hresp

/-! ## Several instances -/

/-- What a platform step that goes on has done. -/
theorem Platform.step_next {p q : Platform} {k : Nat} (h : Platform.step p k = .next q) :
    ∃ s t, p[k]? = some s ∧ Machine.step s = .next t ∧ q = p.set k t := by
  unfold Platform.step at h
  split at h
  next => cases h
  next s hs =>
    split at h
    next t ht => cases h; exact ⟨s, t, hs, ht, rfl⟩
    next => cases h
    next => cases h

/-- Settles O54: a step replaces one entry of the platform's list, and sending an event modifies one. -/
theorem instancesAreIndependent : Obligations.InstancesAreIndependent := by
  refine ⟨fun p q k h => ?_, fun p k e j hj => ?_, ?_, fun s hs => List.eq_of_mem_replicate hs⟩
  · obtain ⟨s, t, hs, ht, rfl⟩ := Platform.step_next h
    obtain ⟨hk, _⟩ := List.getElem?_eq_some_iff.1 hs
    exact ⟨⟨s, t, hs, ht, List.getElem?_set_self hk⟩, fun j hj => List.getElem?_set_ne hj.symm⟩
  · exact List.getElem?_modify_ne _ _ hj.symm
  · simp [Platform.reset, Config.numEngines]

end Sys2Proof.Machine

/-! What can stop a command, what a command leaves of the interface, and the claims of 20_memory.md. -/

namespace Sys2Proof.Machine

open Sys2Proof

/-! ## Stopping -/

theorem AnswersOnly.goesOn {i : Instr} {s : State} (h : AnswersOnly i s) : ∃ t, exec i s = .next t := by
  obtain ⟨_, _, e⟩ := h
  exact ⟨_, e⟩

/-- A command goes on, or it is a block command under the mode that is never stored. -/
theorem exec_goesOn_or_stops (i : Instr) (s : State) :
    (∃ t, exec i s = .next t) ∨
    (exec i s = .fault .scheduleIndex ∧ isBlockOperation i = true ∧ i.payload.length = 16 ∧ s.ready = true ∧
      s.ks = 3#2) := by
  obtain h | ⟨_, _, _, _, _, _, _, e⟩ | ⟨_, _, _, _, _, e⟩ | ⟨_, _, _, _, _, e⟩ | ⟨_, e⟩ |
    ⟨⟨b, hb⟩, hr, h3, e⟩ := exec_cases i s
  · exact .inl h.goesOn
  · exact .inl ⟨_, e⟩
  · exact .inl ⟨_, e⟩
  · exact .inl ⟨_, e⟩
  · exact .inl ⟨_, e⟩
  · obtain rfl | rfl := hb <;> exact .inr ⟨e, rfl, b.bytes_length, hr, h3⟩

/-- Under `MODE.KS = 3` a round key would lie outside `W`: the check of a block command stops before the cipher runs
(20_memory.md rule R54). -/
theorem checkBlock_stops {inp : List Byte} {s : State} (k : Result) (hl : inp.length = 16) (hr : s.ready = true)
    (h3 : s.ks = 3#2) : checkBlock inp s k = .fault .scheduleIndex := by
  obtain ⟨h, _⟩ | ⟨_, h, _⟩ | ⟨_, _, _, e⟩ | ⟨_, _, h, _⟩ := checkBlock_cases inp s k
  · exact absurd hl h
  · cases hr.symm.trans h
  · exact e
  · exact absurd h3 h

theorem exec_stops {i : Instr} {s : State} (hb : isBlockOperation i = true) (hl : i.payload.length = 16)
    (hr : s.ready = true) (h3 : s.ks = 3#2) : exec i s = .fault .scheduleIndex := by
  cases i with
  | enc inp => exact checkBlock_stops _ hl hr h3
  | dec inp => exact checkBlock_stops _ hl hr h3
  | _ => cases hb

/-- Settles O13: a command goes on unless it is a block command under `MODE.KS = 3`, where the check of R54 stops it. -/
theorem onlyAnIllegalModeStopsACommand : Obligations.OnlyAnIllegalModeStopsACommand := by
  refine ⟨fun i s f => ⟨fun h => ?_, ?_⟩, fun i s r h => ?_⟩
  · obtain ⟨t, e⟩ | ⟨e, hstop⟩ := exec_goesOn_or_stops i s <;> cases h.symm.trans e
    exact ⟨rfl, hstop⟩
  · rintro ⟨rfl, hb, hl, hr, h3⟩
    exact exec_stops hb hl hr h3
  · obtain ⟨t, e⟩ | ⟨e, _⟩ := exec_goesOn_or_stops i s <;> cases h.symm.trans e

/-- Settles O43: only a command can stop a step, and the invariant excludes the mode under which one does. -/
theorem noStepStopsUnderTheInvariant : Obligations.NoStepStopsUnderTheInvariant := by
  intro s hs
  obtain ⟨_, e⟩ | ⟨_, _, e⟩ | ⟨_, _, _, _, e⟩ | ⟨_, _, _, _, _, _, e⟩ | ⟨_, _, es, i, _, _, e⟩ := step_cases s
  · exact ⟨_, e⟩
  · exact ⟨_, e⟩
  · exact ⟨_, e⟩
  · exact ⟨_, e⟩
  · obtain ⟨t, ht⟩ | ⟨_, _, _, hr, h3⟩ := exec_goesOn_or_stops i (s.withPending es)
    · exact ⟨t, e.trans ht⟩
    · obtain ⟨hlegal, _⟩ := hs.2 hr
      exact absurd h3 hlegal

/-! ## The interface -/

/-- No command reads the response of the one before it: each answer overwrites it (20_memory.md rule R58). -/
theorem exec_withResponse (i : Instr) (s : State) (q : Option Response) : exec i (s.withResponse q) = exec i s := by
  cases i <;> rfl

/-- No command touches the host's events. -/
theorem exec_pending {i : Instr} {s t : State} (h : exec i s = .next t) : t.pending = s.pending := by
  obtain ⟨_, _, e⟩ | ⟨_, _, _, _, _, _, _, e⟩ | ⟨_, _, _, _, _, e⟩ | ⟨_, _, _, _, _, e⟩ | ⟨_, e⟩ | ⟨_, _, _, e⟩ :=
    exec_cases i s <;> cases h.symm.trans e <;> rfl

/-- A command that writes no state element answers the same when it is repeated. -/
theorem AnswersOnly.idempotent {i : Instr} {s t : State} (ha : AnswersOnly i s) (h : exec i s = .next t) :
    exec i t = .next t := by
  obtain ⟨r, _, e⟩ := ha
  cases h.symm.trans e
  exact (exec_withResponse i s _).trans e

/-- Settles O53: the command changes nothing but the response, which it does not read, or it is the `ZEROIZE` that
clears a cleared engine again. -/
theorem otherCommandsAreIdempotent : Obligations.OtherCommandsAreIdempotent := by
  intro i s t hblock hinit h
  obtain ha | ⟨ch, ks, inp, hi, _, _, _, e⟩ | ⟨b, rfl, _, _, hc, _⟩ | ⟨b, rfl, _, _, hc, _⟩ | ⟨rfl, e⟩ |
    ⟨_, _, _, e⟩ := exec_cases i s
  · exact ha.idempotent h
  · cases h.symm.trans e
    exact absurd rfl (hinit ch ks inp hi)
  · cases hc.symm.trans (hblock rfl)
  · cases hc.symm.trans (hblock rfl)
  · cases h.symm.trans e
    rfl
  · cases h.symm.trans e

/-- A command that decodes is executed on the state with its event taken (20_memory.md rules R61, R63). -/
theorem step_command {s : State} {cmd : Byte} {inp : List Byte} {es : List HostEvent} {i : Instr}
    (hp : s.pending = .command cmd inp :: es) (hd : decode cmd inp = .ok i) : step s = exec i (s.withPending es) := by
  simp only [step, nextEvent_cons hp, hd]

/-- With no event the engine waits. -/
theorem step_idle {s : State} (hp : s.pending = []) : step s = .next s := by
  simp only [step, nextEvent_nil hp]

/-- Settles O5: the step by its next event, and no command touches the events. -/
theorem stepRunsTheDecodedCommand : Obligations.StepRunsTheDecodedCommand :=
  ⟨fun _ _ _ _ _ hp hd => step_command hp hd, fun _ hp => step_idle hp, fun _ _ _ h => exec_pending h⟩

end Sys2Proof.Machine

/-! Decoding and encoding (30_encoding.md): what `decode` answers by the number of the command byte, that it inverts
`encode`, and the illegal bytes. -/

namespace Sys2Proof

/-! ## The fields of a command byte -/

theorem Chaining.bit_ofBit (b : BitVec 1) : (Chaining.ofBit b).bit = b := by revert b; decide

theorem Chaining.ofBit_bit (ch : Chaining) : Chaining.ofBit ch.bit = ch := by cases ch <;> rfl

/-- The first test of R90 is `0x10 <= cmd <= 0x17`. -/
theorem initBits_iff (cmd : Byte) : cmd.extractLsb' 3 5 = 0b00010#5 ↔ cmd.toNat / 8 = 2 := by
  have := cmd.isLt
  simp only [← BitVec.toNat_inj, BitVec.extractLsb'_toNat, BitVec.toNat_ofNat, Nat.shiftRight_eq_div_pow]
  omega

/-- The second test of R90 is `0x48 <= cmd <= 0x4B`. -/
theorem keyExpandBits_iff (cmd : Byte) : cmd.extractLsb' 2 6 = 0b010010#6 ↔ cmd.toNat / 4 = 18 := by
  have := cmd.isLt
  simp only [← BitVec.toNat_inj, BitVec.extractLsb'_toNat, BitVec.toNat_ofNat, Nat.shiftRight_eq_div_pow]
  omega

/-- Field `ks` by arithmetic (R81). -/
theorem ksField_eq (cmd : Byte) : cmd.extractLsb' 0 2 = BitVec.ofNat 2 (cmd.toNat % 4) := by
  simp [← BitVec.toNat_inj]

/-- Field `ch` by arithmetic (R81, R83). -/
theorem chField_eq (cmd : Byte) :
    Chaining.ofBit (cmd.extractLsb' 2 1) = if cmd.toNat / 4 % 2 = 1 then .cbc else .ecb := by
  have hbit : cmd.extractLsb' 2 1 = BitVec.ofNat 1 (cmd.toNat / 4 % 2) := by
    simp [← BitVec.toNat_inj, Nat.shiftRight_eq_div_pow]
  obtain h | h := Nat.mod_two_eq_zero_or_one (cmd.toNat / 4) <;> rw [hbit, h] <;> rfl

/-- The three fields of an `INIT` byte (R81). -/
theorem fields_initByte (ch : Chaining) (ks : BitVec 2) (inp : List Byte) :
    (commandByte (.init ch ks inp)).extractLsb' 3 5 = 0b00010#5 ∧
    (commandByte (.init ch ks inp)).extractLsb' 2 1 = ch.bit ∧
    (commandByte (.init ch ks inp)).extractLsb' 0 2 = ks := by
  cases ch <;> revert ks <;> simp only [commandByte] <;> decide

/-- The two fields of a `KEYEXPAND` byte (R81). -/
theorem fields_keyExpandByte (ks : BitVec 2) (inp : List Byte) :
    (commandByte (.keyExpand ks inp)).extractLsb' 2 6 = 0b010010#6 ∧
    (commandByte (.keyExpand ks inp)).extractLsb' 0 2 = ks := by
  revert ks; simp only [commandByte]; decide

/-- The byte of a row of the F0 table is the byte of the row's command (R86). -/
theorem commandByte_f0Table (row : Byte × (List Byte → Instr)) (h : row ∈ f0Table) (inp : List Byte) :
    commandByte (row.2 inp) = row.1 := by
  simp only [f0Table, List.mem_cons, List.not_mem_nil, or_false] at h
  rcases h with
    rfl | rfl | rfl | rfl | rfl | rfl | rfl | rfl | rfl | rfl | rfl | rfl | rfl | rfl | rfl | rfl | rfl | rfl | rfl |
    rfl <;> rfl

/-! ## What decoding answers -/

theorem decode_init {cmd : Byte} (inp : List Byte) (h : cmd.toNat / 8 = 2) :
    decode cmd inp = .ok (.init (Chaining.ofBit (cmd.extractLsb' 2 1)) (cmd.extractLsb' 0 2) inp) := by
  rw [decode, if_pos ((initBits_iff cmd).2 h)]

theorem decode_keyExpand {cmd : Byte} (inp : List Byte) (h : cmd.toNat / 4 = 18) :
    decode cmd inp = .ok (.keyExpand (cmd.extractLsb' 0 2) inp) := by
  have h8 : ¬cmd.toNat / 8 = 2 := by omega
  rw [decode, if_neg (mt (initBits_iff cmd).1 h8), if_pos ((keyExpandBits_iff cmd).2 h)]

theorem decode_illegal {cmd : Byte} (inp : List Byte) (h8 : cmd.toNat / 8 ≠ 2) (h4 : cmd.toNat / 4 ≠ 18)
    (hf : cmd ∉ f0Table.map Prod.fst) : decode cmd inp = .error (.illegalCommand cmd) := by
  have hnone : f0Table.find? (fun row => row.1 == cmd) = none :=
    List.find?_eq_none.2 fun row hrow he => hf (List.mem_map.2 ⟨row, hrow, eq_of_beq he⟩)
  rw [decode, if_neg (mt (initBits_iff cmd).1 h8), if_neg (mt (keyExpandBits_iff cmd).1 h4), hnone]

/-- The byte of every command decodes to the command, with every field and payload. -/
theorem decode_commandByte (i : Instr) : decode (commandByte i) i.payload = .ok i := by
  cases i with
  | init ch ks inp =>
    obtain ⟨hop, hch, hks⟩ := fields_initByte ch ks inp
    rw [decode_init _ ((initBits_iff _).1 hop), hch, hks, Chaining.ofBit_bit]
    rfl
  | keyExpand ks inp =>
    obtain ⟨hop, hks⟩ := fields_keyExpandByte ks inp
    rw [decode_keyExpand _ ((keyExpandBits_iff _).1 hop), hks]
    rfl
  | status _ | enc _ | dec _ | zeroize _ | subBytes _ | invSubBytes _ | shiftRows _ | invShiftRows _ | mixColumns _
  | invMixColumns _ | addRoundKey _ | transpose _ | sbox _ | invSbox _ | gfMul2 _ | gfMul3 _ | gfMul9 _ | gfMul11 _
  | gfMul13 _ | gfMul14 _ => simp [decode, commandByte, f0Table, Instr.payload]

/-- A row of the F0 table decodes to its command. -/
theorem decode_f0Table (row : Byte × (List Byte → Instr)) (h : row ∈ f0Table) (inp : List Byte) :
    decode row.1 inp = .ok (row.2 inp) := by
  have hd := decode_commandByte (row.2 inp)
  rwa [commandByte_f0Table row h, Machine.f0Table_payload row h] at hd

/-- The fields decoding reads, put together again, are the command byte (R81). -/
theorem commandByte_of_decode {cmd : Byte} {inp : List Byte} {i : Instr} (h : decode cmd inp = .ok i) :
    commandByte i = cmd := by
  unfold decode at h
  split at h
  next hop =>
    cases h
    rw [commandByte, Chaining.bit_ofBit, ← hop,
      BitVec.extractLsb'_append_extractLsb'_eq_extractLsb' (show 3 = 2 + 1 from rfl),
      BitVec.extractLsb'_append_extractLsb'_eq_extractLsb' (show 2 = 0 + 2 from rfl)]
    exact BitVec.extractLsb'_eq_self
  · split at h
    next hop =>
      cases h
      rw [commandByte, ← hop, BitVec.extractLsb'_append_extractLsb'_eq_extractLsb' (show 2 = 0 + 2 from rfl)]
      exact BitVec.extractLsb'_eq_self
    · split at h
      next row hrow =>
        cases h
        have hbyte := List.find?_some hrow
        rw [commandByte_f0Table row (List.mem_of_find?_eq_some hrow)]
        exact eq_of_beq hbyte
      next => cases h

theorem decodeBytes_encode (i : Instr) : decodeBytes (encode i) = .ok i := decode_commandByte i

theorem encode_of_decodeBytes {bytes : List Byte} {i : Instr} (h : decodeBytes bytes = .ok i) : encode i = bytes := by
  cases bytes with
  | nil => cases h
  | cons cmd inp => rw [encode, commandByte_of_decode h, Machine.payload_of_decode h]

/-- A byte is illegal when it passes none of the three tests of R90, and only then. -/
theorem decode_eq_illegal_iff (cmd : Byte) (inp : List Byte) :
    decode cmd inp = .error (.illegalCommand cmd) ↔
      cmd.toNat / 8 ≠ 2 ∧ cmd.toNat / 4 ≠ 18 ∧ cmd ∉ f0Table.map Prod.fst := by
  refine ⟨fun h => ⟨fun h8 => ?_, fun h4 => ?_, fun hf => ?_⟩, fun ⟨h8, h4, hf⟩ => decode_illegal inp h8 h4 hf⟩
  · cases h.symm.trans (decode_init inp h8)
  · cases h.symm.trans (decode_keyExpand inp h4)
  · obtain ⟨row, hrow, rfl⟩ := List.mem_map.1 hf
    cases h.symm.trans (decode_f0Table row hrow inp)

end Sys2Proof

namespace Sys2Proof.Machine

open Sys2Proof

/-- Settles O2: encoding is the inverse of decoding, the fields of the command byte one by one. -/
theorem decodeAndEncodeAgree : Obligations.DecodeAndEncodeAgree :=
  ⟨decodeBytes_encode, fun _ _ h => encode_of_decodeBytes h⟩

/-- Settles O1, by the three tests; the twenty F0 bytes are the bytes of their commands. -/
theorem decodingFollowsTheThreeTests : Obligations.DecodingFollowsTheThreeTests := by
  refine ⟨fun cmd inp h => ?_, fun cmd inp h => ?_, fun inp => ?_, fun cmd inp => decode_illegal inp⟩
  · rw [decode_init inp h, chField_eq, ksField_eq]
  · rw [decode_keyExpand inp h, ksField_eq]
  · exact ⟨decode_commandByte (.status inp), decode_commandByte (.enc inp), decode_commandByte (.dec inp),
      decode_commandByte (.zeroize inp), decode_commandByte (.subBytes inp), decode_commandByte (.invSubBytes inp),
      decode_commandByte (.shiftRows inp), decode_commandByte (.invShiftRows inp),
      decode_commandByte (.mixColumns inp), decode_commandByte (.invMixColumns inp),
      decode_commandByte (.addRoundKey inp), decode_commandByte (.transpose inp), decode_commandByte (.sbox inp),
      decode_commandByte (.invSbox inp), decode_commandByte (.gfMul2 inp), decode_commandByte (.gfMul3 inp),
      decode_commandByte (.gfMul9 inp), decode_commandByte (.gfMul11 inp), decode_commandByte (.gfMul13 inp),
      decode_commandByte (.gfMul14 inp)⟩

/-- Settles O3: eight of the samples are encodings, and the ninth byte passes none of the three tests. -/
theorem sampleCommandBytesDecode : Obligations.SampleCommandBytesDecode :=
  ⟨decodeBytes_encode (.status []), decodeBytes_encode (.init .cbc 2#2 [0xAA#8]),
    decodeBytes_encode (.init .ecb 1#2 []), decodeBytes_encode (.dec []),
    decodeBytes_encode (.addRoundKey [0x01#8, 0x02#8]), decodeBytes_encode (.keyExpand 3#2 []),
    decodeBytes_encode (.invSbox [0xED#8]), decodeBytes_encode (.gfMul14 [0x57#8]),
    decode_illegal [] (by decide) (by decide) (by decide)⟩

/-- The list of R89 against the three tests of R90, byte by byte. -/
theorem listedIllegal_iff : ∀ cmd : Byte, listedIllegal cmd = true ↔
    cmd.toNat / 8 ≠ 2 ∧ cmd.toNat / 4 ≠ 18 ∧ cmd ∉ f0Table.map Prod.fst := by decide

/-- A byte that does not decode is answered, and nothing else changes (60_exceptions.md rule R274). -/
theorem step_undecodable {s : State} {cmd : Byte} {inp : List Byte} {es : List HostEvent} {e : DecodeError}
    (hp : s.pending = .command cmd inp :: es) (hd : decode cmd inp = .error e) :
    step s = .next ((s.withPending es).withResponse (some ⟨.errIllegalCommand, []⟩)) := by
  simp only [step, nextEvent_cons hp, hd, raiseErr_eq]

/-- Settles O4: the listed bytes are those that pass none of the three tests, and a step refuses them. -/
theorem listedBytesAreIllegalAndChangeNothing : Obligations.ListedBytesAreIllegalAndChangeNothing := by
  have hillegal (cmd : Byte) (inp : List Byte) :
      listedIllegal cmd = true ↔ decode cmd inp = .error (.illegalCommand cmd) :=
    (listedIllegal_iff cmd).trans (decode_eq_illegal_iff cmd inp).symm
  exact ⟨by decide +kernel, hillegal, fun s cmd inp es hp hl => step_undecodable hp ((hillegal cmd inp).1 hl)⟩

end Sys2Proof.Machine

/-! What a command answers: the status R280 expects of it, the output length of R86, and for a pure command one response
for all engines. -/

namespace Sys2Proof.Machine

open Sys2Proof

/-! ## The status and the length of a response -/

/-- The command has left `t` with a response of the expected status: `OK` with an output of the length of R86, or an
error with an empty output and the engine as it was in `s` (R92). -/
def Reports (i : Instr) (s t : State) : Prop :=
  ∃ r : Response, t.response = some r ∧ r.status = expectedStatus i s ∧
    (r.status = .ok → r.out.length = outputLength i) ∧ (r.status ≠ .ok → r.out = [] ∧ s.SameEngine t)

theorem Reports.of_error {i : Instr} {s : State} {st : Status} (hst : expectedStatus i s = st) (hne : st ≠ .ok) :
    Reports i s (s.withResponse (some ⟨st, []⟩)) :=
  ⟨⟨st, []⟩, rfl, hst.symm, fun h => absurd h hne, fun _ => ⟨rfl, .refl s⟩⟩

theorem Reports.of_ok {i : Instr} {s u : State} {out : List Byte} (hst : expectedStatus i s = .ok)
    (hl : out.length = outputLength i) : Reports i s (u.withResponse (some ⟨.ok, out⟩)) :=
  ⟨⟨.ok, out⟩, rfl, hst.symm, fun _ => hl, fun h => absurd rfl h⟩

/-- A command that checks a fixed payload length and then answers `OK`. -/
theorem reports_of_checkLength {i : Instr} {s t u : State} (n : Nat) {inp out : List Byte}
    (h : checkLength n inp s (respond out u) = .next t)
    (hst : expectedStatus i s = if inp.length ≠ n then .errPayloadLength else .ok)
    (hl : out.length = outputLength i) : Reports i s t := by
  obtain ⟨hn, e⟩ | ⟨hn, e⟩ := checkLength_cases n inp s (respond out u) <;> cases h.symm.trans e
  · exact .of_ok (hst.trans (if_neg (not_not.2 hn))) hl
  · exact .of_error (hst.trans (if_pos hn)) (by decide)

/-- `(Nr+1)` round keys of sixteen bytes (41_key_schedule.md rule R148). -/
theorem roundKeyBytes_length (w : List Word) (nr : Nat) : (roundKeyBytes w nr).length = 16 * (nr + 1) := by
  simp [roundKeyBytes, List.length_flatMap, mul_comm]

/-- R280 for `KEYEXPAND`: the mode first, then the length of the key. -/
theorem expectedStatus_keyExpand (ks : BitVec 2) (inp : List Byte) (s : State) :
    expectedStatus (.keyExpand ks inp) s =
      if ks = 3#2 then .errBadMode else if inp.length ≠ 16 + 8 * ks.toNat then .errKeyLength else .ok := by
  by_cases h : ks = 3#2
  · rw [expectedStatus, Instr.requiredLength, if_pos h, if_pos h]
  · rw [expectedStatus, Instr.requiredLength, if_neg h, if_neg h]
    rfl

/-- R280 for `INIT`: as for `KEYEXPAND`, then the engine. -/
theorem expectedStatus_init (ch : Chaining) (ks : BitVec 2) (inp : List Byte) (s : State) :
    expectedStatus (.init ch ks inp) s =
      if ks = 3#2 then .errBadMode else if inp.length ≠ 16 + 8 * ks.toNat then .errKeyLength
      else if s.ready then .errAlreadyConstructed else .ok := by
  by_cases h : ks = 3#2
  · rw [expectedStatus, Instr.requiredLength, if_pos h, if_pos h]
  · rw [expectedStatus, Instr.requiredLength, if_neg h, if_neg h]
    rfl

theorem keyExpand_reports {ks : BitVec 2} {inp : List Byte} {s t : State} (h : exec (.keyExpand ks inp) s = .next t) :
    Reports (.keyExpand ks inp) s t := by
  have hst := expectedStatus_keyExpand ks inp s
  rw [exec_keyExpand] at h
  obtain ⟨h3, e⟩ | ⟨h3, hl, e⟩ | ⟨h3, hl, e⟩ := checkKey_cases ks inp s
    (respond (roundKeyBytes (keyExpansion inp) (rounds ks)) s) <;> cases h.symm.trans e
  · exact .of_error (by rw [hst, if_pos h3]) (by decide)
  · exact .of_error (by rw [hst, if_neg h3, if_pos hl]) (by decide)
  · refine .of_ok (by rw [hst, if_neg h3, if_neg (not_not.2 hl)]) ?_
    obtain ⟨-, hrounds, -⟩ := mode_parameters ks
    rw [roundKeyBytes_length, hrounds, outputLength]
    omega

theorem init_reports {ch : Chaining} {ks : BitVec 2} {inp : List Byte} {s t : State}
    (h : exec (.init ch ks inp) s = .next t) : Reports (.init ch ks inp) s t := by
  have hst := expectedStatus_init ch ks inp s
  obtain ⟨h3, e⟩ | ⟨h3, hl, e⟩ | ⟨h3, hl, hr, e⟩ | ⟨h3, hl, hr, e⟩ := execInit_cases ch ks inp s <;>
    cases h.symm.trans e
  · exact .of_error (by rw [hst, if_pos h3]) (by decide)
  · exact .of_error (by rw [hst, if_neg h3, if_pos hl]) (by decide)
  · exact .of_error (by rw [hst, if_neg h3, if_neg (not_not.2 hl), if_pos hr]) (by decide)
  · exact .of_ok (by rw [hst, if_neg h3, if_neg (not_not.2 hl), hr]; rfl) rfl

/-- `ENC` and `DEC`: the checks, and an answer whose block depends on the chaining mode. -/
theorem reports_of_checkBlock {i : Instr} {s t : State} {inp : List Byte} {k : Result}
    (h : checkBlock inp s k = .next t)
    (hst : expectedStatus i s = if inp.length ≠ 16 then .errPayloadLength else if s.ready then .ok else .errNotReady)
    (hk : ∃ (u : State) (b : Block), k = respond b.bytes u) (hl : outputLength i = 16) : Reports i s t := by
  obtain ⟨hn, e⟩ | ⟨hn, hr, e⟩ | ⟨_, _, _, e⟩ | ⟨hn, hr, _, e⟩ := checkBlock_cases inp s k
  · cases h.symm.trans e
    exact .of_error (by rw [hst, if_pos hn]) (by decide)
  · cases h.symm.trans e
    exact .of_error (by rw [hst, if_neg (not_not.2 hn), hr]; rfl) (by decide)
  · cases h.symm.trans e
  · obtain ⟨u, b, rfl⟩ := hk
    cases h.symm.trans e
    exact .of_ok (by rw [hst, if_neg (not_not.2 hn), if_pos hr]) hl.symm

/-- Every command that goes on reports the status R280 expects, in the format of R92. -/
theorem exec_reports (i : Instr) {s t : State} (h : exec i s = .next t) : Reports i s t := by
  cases i with
  | status inp => exact reports_of_checkLength 0 h rfl rfl
  | init ch ks inp => exact init_reports h
  | enc inp =>
    refine reports_of_checkBlock h rfl ?_ rfl
    cases s.ch <;> exact ⟨_, _, rfl⟩
  | dec inp =>
    refine reports_of_checkBlock h rfl ?_ rfl
    cases s.ch <;> exact ⟨_, _, rfl⟩
  | zeroize inp => exact reports_of_checkLength 0 h rfl rfl
  | keyExpand ks inp => exact keyExpand_reports h
  | addRoundKey inp => exact reports_of_checkLength 32 h rfl rfl
  | subBytes inp | invSubBytes inp | shiftRows inp | invShiftRows inp | mixColumns inp | invMixColumns inp
  | transpose inp => exact reports_of_checkLength 16 h rfl rfl
  | sbox inp | invSbox inp | gfMul2 inp | gfMul3 inp | gfMul9 inp | gfMul11 inp | gfMul13 inp | gfMul14 inp =>
    exact reports_of_checkLength 1 h rfl rfl

/-- A well-formed command in a state that suits it meets none of the errors of R280. -/
theorem expectedStatus_of_wellFormed {i : Instr} {s : State} (hw : i.wellFormed = true)
    (hblock : isBlockOperation i = true → s.ready = true)
    (hinit : ∀ ch ks p, i = .init ch ks p → s.ready = false) : expectedStatus i s = .ok := by
  have hlen : i.requiredLength = some i.payload.length := eq_of_beq hw
  cases i with
  | init ch ks inp => simp [expectedStatus, hlen, hinit ch ks inp rfl]
  | enc inp => simp [expectedStatus, hlen, hblock rfl]
  | dec inp => simp [expectedStatus, hlen, hblock rfl]
  | _ => simp [expectedStatus, hlen]

/-- Settles O44: the command does not stop, and the status it reports is `OK`. -/
theorem wellFormedCommandsComplete : Obligations.WellFormedCommandsComplete := by
  intro i s hw hblock hinit
  obtain ⟨t, ht⟩ | ⟨_, hb, _, _, h3⟩ := exec_goesOn_or_stops i s
  · obtain ⟨⟨st, out⟩, hresp, hst, hok, _⟩ := exec_reports i ht
    have hst : st = .ok := hst.trans (expectedStatus_of_wellFormed hw (fun hb => (hblock hb).1) hinit)
    exact ⟨t, out, ht, hst ▸ hresp, hok hst⟩
  · obtain ⟨_, hlegal⟩ := hblock hb
    exact absurd h3 hlegal

/-- Settles O47: every command reports in this format. -/
theorem responsesHaveTheirFormat : Obligations.ResponsesHaveTheirFormat := by
  refine ⟨⟨rfl, rfl, rfl, rfl, rfl, rfl, rfl⟩, fun st => by cases st <;> decide, fun i s t r h hr => ?_⟩
  obtain ⟨q, hq, _, hok, herr⟩ := exec_reports i h
  obtain rfl : r = q := Option.some.inj (hr.symm.trans hq)
  exact ⟨hok, herr⟩

/-! ## The pure commands -/

/-- There is one response that every engine gives, and nothing else changes (30_encoding.md rule R88). -/
def AnswersOne (e : State → Result) : Prop := ∃ r : Response, ∀ s, e s = .next (s.withResponse (some r))

theorem pureCommand_answersOne (n : Nat) (f : List Byte → List Byte) (inp : List Byte) :
    AnswersOne (pureCommand n f inp) := by
  by_cases h : inp.length = n
  · exact ⟨⟨.ok, f inp⟩, fun s => checkLength_pass s _ h⟩
  · exact ⟨⟨.errPayloadLength, []⟩, fun s => checkLength_fail s _ h⟩

theorem blockCommand_answersOne (f : Block → Block) (inp : List Byte) : AnswersOne (blockCommand f inp) :=
  pureCommand_answersOne 16 _ inp

theorem unitCommand_answersOne (f : Byte → Byte) (inp : List Byte) : AnswersOne (unitCommand f inp) :=
  pureCommand_answersOne 1 _ inp

theorem checkKey_answersOne (ks : BitVec 2) (inp out : List Byte) :
    AnswersOne fun s => checkKey ks inp s (respond out s) := by
  by_cases h3 : ks = 3#2
  · exact ⟨⟨.errBadMode, []⟩, fun s => if_pos h3⟩
  · by_cases hl : inp.length = 4 * keyWordCount ks
    · exact ⟨⟨.ok, out⟩, fun s => (if_neg h3).trans (if_neg (not_not.2 hl))⟩
    · exact ⟨⟨.errKeyLength, []⟩, fun s => (if_neg h3).trans (if_pos hl)⟩

/-- The checks of a pure command and the function it applies read the payload and `ks` only. -/
theorem answersOne_of_isPure (i : Instr) (h : i.isPure = true) : AnswersOne (exec i) := by
  cases i with
  | status _ | init _ _ _ | enc _ | dec _ | zeroize _ => cases h
  | keyExpand ks inp => exact checkKey_answersOne ks inp _
  | addRoundKey inp =>
    exact pureCommand_answersOne 32 (fun p => (addRoundKey (payloadBlock p 0) (payloadBlock p 16)).bytes) inp
  | subBytes inp | invSubBytes inp | shiftRows inp | invShiftRows inp | mixColumns inp | invMixColumns inp
  | transpose inp => exact blockCommand_answersOne _ inp
  | sbox inp | invSbox inp | gfMul2 inp | gfMul3 inp | gfMul9 inp | gfMul11 inp | gfMul13 inp | gfMul14 inp =>
    exact unitCommand_answersOne _ inp

/-- Settles O48: a pure command gives one response in every state. -/
theorem pureCommandsIgnoreTheEngine : Obligations.PureCommandsIgnoreTheEngine := answersOne_of_isPure

end Sys2Proof.Machine

/-! The assembler (30_encoding.md rules R100, R101): a line written for a command is cut into the same mnemonic, mode and
payload again. -/

namespace Sys2Proof.Machine

open Sys2Proof

/-! ## Hexadecimal -/

theorem digitValue_hexDigits : ∀ n < 16, digitValue (hexDigits.getD n '0') = some n := by decide

/-- A byte sequence written in hexadecimal reads back (00_scope.md rule R12). -/
theorem readHex_hexText (bs : List Byte) : readHex (hexText bs) = some bs := by
  induction bs with
  | nil => rfl
  | cons b bs ih =>
    have hb := b.isLt
    have hbyte : BitVec.ofNat 8 (16 * (b.toNat / 16) + b.toNat % 16) = b := by
      rw [Nat.div_add_mod, BitVec.ofNat_toNat, BitVec.setWidth_eq]
    have htext : hexText (b :: bs) =
        hexDigits.getD (b.toNat / 16) '0' :: hexDigits.getD (b.toNat % 16) '0' :: hexText bs := rfl
    rw [htext, readHex, digitValue_hexDigits _ (by omega), digitValue_hexDigits _ (by omega), ih]
    simp only [hbyte]

/-! ## Text without separators -/

/-- The characters that separate the parts of a line. -/
def separators : List Char := [' ', ',', ';', '-', '|']

/-- A character that is no separator. -/
def isPlain (c : Char) : Bool := !separators.contains c

theorem ne_of_isPlain {c d : Char} (hc : isPlain c = true) (hd : isPlain d = false) : c ≠ d := by
  rintro rfl
  exact Bool.noConfusion (hc.symm.trans hd)

theorem not_mem_of_plain {text : List Char} {d : Char} (h : text.all isPlain = true) (hd : isPlain d = false) :
    d ∉ text := fun hm => ne_of_isPlain (List.all_eq_true.1 h d hm) hd rfl

theorem plain_hexText (bs : List Byte) : (hexText bs).all isPlain = true := by
  have hdigit : ∀ n < 16, isPlain (hexDigits.getD n '0') = true := by decide
  rw [List.all_eq_true]
  intro c hc
  obtain ⟨b, _, hc⟩ := List.mem_flatMap.1 hc
  have hb := b.isLt
  simp only [hexByte, List.mem_cons, List.not_mem_nil, or_false] at hc
  obtain rfl | rfl := hc
  · exact hdigit _ (by omega)
  · exact hdigit _ (by omega)

theorem plain_mnemonic (i : Instr) : (mnemonic i).toList.all isPlain = true := by
  cases i <;> dsimp only [mnemonic] <;> decide

theorem mnemonic_ne_nil (i : Instr) : (mnemonic i).toList ≠ [] := by
  cases i <;> dsimp only [mnemonic] <;> decide

theorem plain_modeName (ch : Chaining) (ks : BitVec 2) : (nameOf modeNames (ch, ks)).toList.all isPlain = true := by
  cases ch <;> revert ks <;> decide

theorem plain_keySizeName : ∀ ks : BitVec 2, (nameOf keySizeNames ks).toList.all isPlain = true := by decide

/-- A mnemonic stands for itself (R101). -/
theorem resolveAlias_mnemonic (i : Instr) : resolveAlias (mnemonic i) = mnemonic i := by cases i <;> rfl

theorem keyOf_modeName (ch : Chaining) (ks : BitVec 2) :
    keyOf modeNames (nameOf modeNames (ch, ks)) = some (ch, ks) := by
  cases ch <;> revert ks <;> decide

theorem keyOf_keySizeName : ∀ ks : BitVec 2, keyOf keySizeNames (nameOf keySizeNames ks) = some ks := by decide

/-! ## The parts of a line -/

/-- What `assemble` reads of a line: no comment, no response and no blanks in front. -/
def lineCode (line : List Char) : List Char :=
  (beforeArrow (line.takeWhile fun c => c ≠ ';')).dropWhile fun c => c = ' '

/-- The character belongs to the name a line begins with. -/
def inName (c : Char) : Bool := c ≠ ' ' && c ≠ ','

/-- What `assemble` makes of a name and the operands without their blanks. -/
def readOperands (name : String) (rest : List Char) : Option Instr :=
  let mode := String.ofList (rest.takeWhile fun c => c ≠ ',')
  let tail := withoutComma (rest.dropWhile fun c => c ≠ ',')
  if name = "INIT" then
    match keyOf modeNames mode, readHex tail with
    | some m, some inp => some (.init m.1 m.2 inp)
    | _, _ => none
  else if name = "KEYEXPAND" then
    match keyOf keySizeNames mode, readHex tail with
    | some ks, some inp => some (.keyExpand ks inp)
    | _, _ => none
  else if name = "ADDROUNDKEY" then
    (readJoined (withoutComma rest)).map .addRoundKey
  else
    match keyOf f0Names name, readHex (withoutComma rest) with
    | some f, some inp => some (f inp)
    | _, _ => none

theorem assemble_eq (line : List Char) :
    assemble line = readOperands (resolveAlias (String.ofList ((lineCode line).takeWhile inName)))
      (((lineCode line).dropWhile inName).filter fun c => c ≠ ' ') := rfl

/-- A line without comment, response and leading blanks is code as a whole. -/
theorem lineCode_eq_self {c : Char} {text : List Char} (hc : c ≠ ' ') (hsemi : ';' ∉ c :: text)
    (hdash : '-' ∉ c :: text) : lineCode (c :: text) = c :: text := by
  have hcomment : (c :: text).takeWhile (fun d => d ≠ ';') = c :: text :=
    List.takeWhile_eq_self_iff.2 fun d hd => decide_eq_true fun e => hsemi (e ▸ hd)
  rw [lineCode, hcomment, beforeArrow_eq_self hdash, List.dropWhile_cons_of_neg (by simpa using hc)]

/-- The operands after a mnemonic: none, or a blank and then text without a comment or a response. -/
def IsOperands (rest : List Char) : Prop := rest.takeWhile inName = [] ∧ ';' ∉ rest ∧ '-' ∉ rest

/-- A line is cut after its mnemonic. -/
theorem assemble_mnemonic_append (i : Instr) {rest : List Char} (h : IsOperands rest) :
    assemble ((mnemonic i).toList ++ rest) = readOperands (mnemonic i) (rest.filter fun c => c ≠ ' ') := by
  obtain ⟨hcut, hsemi, hdash⟩ := h
  have hplain := plain_mnemonic i
  have hin : ∀ c ∈ (mnemonic i).toList, inName c = true := fun c hc => by
    have hcp := List.all_eq_true.1 hplain c hc
    simp [inName, ne_of_isPlain hcp (d := ' ') rfl, ne_of_isPlain hcp (d := ',') rfl]
  have hcode : lineCode ((mnemonic i).toList ++ rest) = (mnemonic i).toList ++ rest := by
    have hs : ';' ∉ (mnemonic i).toList ++ rest := by simp [hsemi, not_mem_of_plain hplain (d := ';') rfl]
    have hd : '-' ∉ (mnemonic i).toList ++ rest := by simp [hdash, not_mem_of_plain hplain (d := '-') rfl]
    obtain ⟨c, cs, hname⟩ := List.exists_cons_of_ne_nil (mnemonic_ne_nil i)
    have hc : c ≠ ' ' := ne_of_isPlain (List.all_eq_true.1 hplain c (hname ▸ List.mem_cons_self)) rfl
    rw [hname] at hs hd ⊢
    exact lineCode_eq_self hc hs hd
  have hrest : rest.dropWhile inName = rest := by
    simpa [hcut] using List.takeWhile_append_dropWhile (p := inName) (l := rest)
  rw [assemble_eq, hcode, List.takeWhile_append_of_pos hin, List.dropWhile_append_of_pos hin, hcut, hrest,
    List.append_nil, String.ofList_toList, resolveAlias_mnemonic]

/-! ## The operands as they are written -/

theorem filter_blank_of_plain {text : List Char} (h : text.all isPlain = true) :
    text.filter (fun c => c ≠ ' ') = text :=
  List.filter_eq_self.2 fun c hc => decide_eq_true (ne_of_isPlain (List.all_eq_true.1 h c hc) rfl)

theorem withoutComma_of_plain {text : List Char} (h : text.all isPlain = true) : withoutComma text = text := by
  unfold withoutComma
  split
  next => exact absurd List.mem_cons_self (not_mem_of_plain h rfl)
  next => rfl

theorem not_mem_payloadText {d : Char} {lead : List Char} (hlead : d ∉ lead) (hd : isPlain d = false)
    (inp : List Byte) : d ∉ payloadText lead inp := by
  cases inp with
  | nil => exact List.not_mem_nil
  | cons b bs => exact List.not_mem_append hlead (not_mem_of_plain (plain_hexText (b :: bs)) hd)

/-- A payload after a blank. -/
theorem isOperands_payloadText (inp : List Byte) : IsOperands (payloadText [' '] inp) := by
  refine ⟨?_, not_mem_payloadText (by decide) rfl inp, not_mem_payloadText (by decide) rfl inp⟩
  cases inp <;> rfl

/-- A mode and a payload. -/
theorem isOperands_mode {mode : List Char} (hm : mode.all isPlain = true) (inp : List Byte) :
    IsOperands (' ' :: mode ++ payloadText [',', ' '] inp) := by
  have hnot {d : Char} (hd : isPlain d = false) (hlead : d ∉ [',', ' ']) :
      d ∉ ' ' :: mode ++ payloadText [',', ' '] inp := by
    have hblank : d ≠ ' ' := by rintro rfl; exact hlead (by decide)
    exact List.not_mem_append (List.not_mem_cons_of_ne_of_not_mem hblank (not_mem_of_plain hm hd))
      (not_mem_payloadText hlead hd inp)
  exact ⟨rfl, hnot rfl (by decide), hnot rfl (by decide)⟩

theorem withoutComma_filter_payloadText (inp : List Byte) :
    withoutComma ((payloadText [' '] inp).filter fun c => c ≠ ' ') = hexText inp := by
  cases inp with
  | nil => rfl
  | cons b bs =>
    have hplain := plain_hexText (b :: bs)
    have hfilter : (payloadText [' '] (b :: bs)).filter (fun c => c ≠ ' ') = hexText (b :: bs) :=
      filter_blank_of_plain hplain
    rw [hfilter, withoutComma_of_plain hplain]

/-- A payload that follows a mode, without its blanks: nothing, or a comma and the digits. -/
theorem filter_payloadText_comma (inp : List Byte) :
    ((payloadText [',', ' '] inp).filter (fun c => c ≠ ' ') = [] ∧ hexText inp = []) ∨
      (payloadText [',', ' '] inp).filter (fun c => c ≠ ' ') = ',' :: hexText inp := by
  cases inp with
  | nil => exact .inl ⟨rfl, rfl⟩
  | cons b bs => exact .inr (congrArg (',' :: ·) (filter_blank_of_plain (plain_hexText (b :: bs))))

/-- A mode and a payload are cut apart at the comma. -/
theorem cut_mode {mode : List Char} (hm : mode.all isPlain = true) (inp : List Byte) :
    let rest := (' ' :: mode ++ payloadText [',', ' '] inp).filter fun c => c ≠ ' '
    rest.takeWhile (fun c => c ≠ ',') = mode ∧ withoutComma (rest.dropWhile fun c => c ≠ ',') = hexText inp := by
  have hcomma : ∀ c ∈ mode, decide (c ≠ ',') = true := fun c hc =>
    decide_eq_true (ne_of_isPlain (List.all_eq_true.1 hm c hc) rfl)
  have hrest : (' ' :: mode ++ payloadText [',', ' '] inp).filter (fun c => c ≠ ' ') =
      mode ++ (payloadText [',', ' '] inp).filter fun c => c ≠ ' ' := by
    rw [List.cons_append, List.filter_cons_of_neg (by decide), List.filter_append, filter_blank_of_plain hm]
  intro rest
  rw [show rest = _ from hrest, List.takeWhile_append_of_pos hcomma, List.dropWhile_append_of_pos hcomma]
  obtain ⟨e, hhex⟩ | e := filter_payloadText_comma inp <;> rw [e]
  · exact ⟨List.append_nil mode, hhex.symm⟩
  · exact ⟨List.append_nil mode, rfl⟩

/-! ## The lines -/

theorem assemble_init (ch : Chaining) (ks : BitVec 2) (inp : List Byte) :
    assemble (asmLine (.init ch ks inp)) = some (.init ch ks inp) := by
  obtain ⟨hmode, htail⟩ := cut_mode (plain_modeName ch ks) inp
  refine (assemble_mnemonic_append _ (isOperands_mode (plain_modeName ch ks) inp)).trans ?_
  simp only [readOperands, mnemonic, hmode, htail, String.ofList_toList, keyOf_modeName, readHex_hexText, reduceIte]

theorem assemble_keyExpand (ks : BitVec 2) (inp : List Byte) :
    assemble (asmLine (.keyExpand ks inp)) = some (.keyExpand ks inp) := by
  obtain ⟨hmode, htail⟩ := cut_mode (plain_keySizeName ks) inp
  refine (assemble_mnemonic_append _ (isOperands_mode (plain_keySizeName ks) inp)).trans ?_
  simp only [readOperands, mnemonic, hmode, htail, String.ofList_toList, keyOf_keySizeName, readHex_hexText,
    String.reduceEq, reduceIte]

theorem assemble_addRoundKey (inp : List Byte) : assemble (asmLine (.addRoundKey inp)) = some (.addRoundKey inp) := by
  refine (assemble_mnemonic_append _ (isOperands_payloadText inp)).trans ?_
  have hbar : '|' ∉ hexText inp := not_mem_of_plain (plain_hexText inp) rfl
  simp only [readOperands, mnemonic, withoutComma_filter_payloadText, readJoined_eq_readHex hbar, readHex_hexText,
    String.reduceEq, reduceIte, Option.map_some]

/-- The commands whose operands are more than one hexadecimal string. -/
def ownOperands : List String := ["INIT", "KEYEXPAND", "ADDROUNDKEY"]

theorem readOperands_f0 {name : String} {f : List Byte → Instr} (hown : ownOperands.contains name = false)
    (hf : keyOf f0Names name = some f) {rest : List Char} {inp : List Byte}
    (hinp : readHex (withoutComma rest) = some inp) : readOperands name rest = some (f inp) := by
  simp only [ownOperands, List.contains_eq_mem, List.mem_cons, List.not_mem_nil, or_false, decide_eq_false_iff_not,
    not_or] at hown
  obtain ⟨hinit, hkey, hadd⟩ := hown
  simp only [readOperands, if_neg hinit, if_neg hkey, if_neg hadd, hf, hinp]

theorem assemble_f0 {i : Instr} (f : List Byte → Instr)
    (hline : asmLine i = (mnemonic i).toList ++ payloadText [' '] i.payload) (hi : f i.payload = i)
    (hown : ownOperands.contains (mnemonic i) = false) (hf : keyOf f0Names (mnemonic i) = some f) :
    assemble (asmLine i) = some i := by
  have hinp : readHex (withoutComma ((payloadText [' '] i.payload).filter fun c => c ≠ ' ')) = some i.payload := by
    rw [withoutComma_filter_payloadText, readHex_hexText]
  rw [hline, assemble_mnemonic_append i (isOperands_payloadText i.payload), readOperands_f0 hown hf hinp, hi]

theorem assemble_asmLine (i : Instr) : assemble (asmLine i) = some i := by
  cases i with
  | init ch ks inp => exact assemble_init ch ks inp
  | keyExpand ks inp => exact assemble_keyExpand ks inp
  | addRoundKey inp => exact assemble_addRoundKey inp
  | status _ => exact assemble_f0 .status rfl rfl rfl rfl
  | enc _ => exact assemble_f0 .enc rfl rfl rfl rfl
  | dec _ => exact assemble_f0 .dec rfl rfl rfl rfl
  | zeroize _ => exact assemble_f0 .zeroize rfl rfl rfl rfl
  | subBytes _ => exact assemble_f0 .subBytes rfl rfl rfl rfl
  | invSubBytes _ => exact assemble_f0 .invSubBytes rfl rfl rfl rfl
  | shiftRows _ => exact assemble_f0 .shiftRows rfl rfl rfl rfl
  | invShiftRows _ => exact assemble_f0 .invShiftRows rfl rfl rfl rfl
  | mixColumns _ => exact assemble_f0 .mixColumns rfl rfl rfl rfl
  | invMixColumns _ => exact assemble_f0 .invMixColumns rfl rfl rfl rfl
  | transpose _ => exact assemble_f0 .transpose rfl rfl rfl rfl
  | sbox _ => exact assemble_f0 .sbox rfl rfl rfl rfl
  | invSbox _ => exact assemble_f0 .invSbox rfl rfl rfl rfl
  | gfMul2 _ => exact assemble_f0 .gfMul2 rfl rfl rfl rfl
  | gfMul3 _ => exact assemble_f0 .gfMul3 rfl rfl rfl rfl
  | gfMul9 _ => exact assemble_f0 .gfMul9 rfl rfl rfl rfl
  | gfMul11 _ => exact assemble_f0 .gfMul11 rfl rfl rfl rfl
  | gfMul13 _ => exact assemble_f0 .gfMul13 rfl rfl rfl rfl
  | gfMul14 _ => exact assemble_f0 .gfMul14 rfl rfl rfl rfl

/-- Settles O60: the line is cut where it was put together, and hexadecimal reads back. -/
theorem assemblingALineGivesTheCommand : Obligations.AssemblingALineGivesTheCommand :=
  ⟨assemble_asmLine, readHex_hexText, rfl, rfl, rfl⟩

end Sys2Proof.Machine

/-! Multiplication in GF(2^8), the multiply units and the substitution tables, and the claims of 40_tables_and_gf.md. -/

namespace Sys2Proof.Machine

open Sys2Proof

/-! ## The product in each factor -/

theorem map_zero_of_map_xor {f : Byte → Byte} (hf : ∀ a b, f (a ^^^ b) = f a ^^^ f b) : f 0#8 = 0#8 := by
  simpa using hf 0#8 0#8

theorem gfMulTop_xor_left (a b c : Byte) (n : Nat) :
    gfMulTop (a ^^^ b) c n = gfMulTop a c n ^^^ gfMulTop b c n := by
  induction n with
  | zero => simp [gfMulTop]
  | succ n ih =>
    simp only [gfMulTop, ih, xtime_xor]
    cases c.getLsbD (7 - n)
    · simp
    · simp only [if_true]; ac_rfl

theorem gfMul_xor_left (a b c : Byte) : gfMul (a ^^^ b) c = gfMul a c ^^^ gfMul b c := gfMulTop_xor_left a b c 8

/-- Horner's rule goes through every linear map that commutes with multiplication by `x`. -/
theorem map_gfMulTop {f : Byte → Byte} (hxor : ∀ a b, f (a ^^^ b) = f a ^^^ f b)
    (hx : ∀ a, f (xtime a) = xtime (f a)) (a b : Byte) (n : Nat) : f (gfMulTop a b n) = gfMulTop (f a) b n := by
  have h0 := map_zero_of_map_xor hxor
  induction n with
  | zero => exact h0
  | succ n ih => rw [gfMulTop, gfMulTop, hxor, hx, ih, apply_ite f, h0]

/-- Multiplication by `x` may be done on the first factor. -/
theorem gfMul_xtime_left (a b : Byte) : gfMul (xtime a) b = xtime (gfMul a b) :=
  (map_gfMulTop xtime_xor (fun _ => rfl) a b 8).symm

theorem gfMul_right_comm (a b c : Byte) : gfMul (gfMul a b) c = gfMul (gfMul a c) b :=
  map_gfMulTop (f := (gfMul · c)) (fun x y => gfMul_xor_left x y c) (fun x => gfMul_xtime_left x c) a b 8

@[simp] theorem gfMul_one_left : ∀ a : Byte, gfMul 1#8 a = a := by decide +kernel

/-! ## The laws of R111 -/

theorem gfMul_comm (a b : Byte) : gfMul a b = gfMul b a := by
  simpa using gfMul_right_comm 1#8 a b

theorem gfMul_assoc (a b c : Byte) : gfMul (gfMul a b) c = gfMul a (gfMul b c) := by
  rw [gfMul_comm a b, gfMul_right_comm, gfMul_comm]

theorem gfMul_xor_right (k a b : Byte) : gfMul k (a ^^^ b) = gfMul k a ^^^ gfMul k b := by
  simp only [gfMul_comm k, gfMul_xor_left]

@[simp] theorem gfMul_zero_right (k : Byte) : gfMul k 0#8 = 0#8 := map_zero_of_map_xor (gfMul_xor_right k)

/-! ## Inverses and the S-boxes -/

/-- The affine map of R121. -/
def sboxAffine (b : Byte) : Byte :=
  b ^^^ b.rotateLeft 1 ^^^ b.rotateLeft 2 ^^^ b.rotateLeft 3 ^^^ b.rotateLeft 4 ^^^ 0x63#8

/-- The affine map of R121 undone. -/
def sboxAffineInv (s : Byte) : Byte := s.rotateLeft 1 ^^^ s.rotateLeft 3 ^^^ s.rotateLeft 6 ^^^ 0x05#8

theorem sboxAffine_sboxAffineInv : ∀ s : Byte, sboxAffine (sboxAffineInv s) = s := by decide +kernel

/-- The field inverse, read back from the S-box, which is made of it by the affine map (R121). -/
def gfInv (a : Byte) : Byte := sboxAffineInv (sbox a)

theorem gfInv_zero : gfInv 0x00#8 = 0x00#8 := by decide

theorem gfMul_gfInv : ∀ a : Byte, a ≠ 0x00#8 → gfMul a (gfInv a) = 0x01#8 := by decide +kernel

theorem sbox_eq_sboxAffine_gfInv (a : Byte) : sbox a = sboxAffine (gfInv a) := (sboxAffine_sboxAffineInv (sbox a)).symm

/-- R111(e): a non-zero factor can be cancelled. -/
theorem gfMul_left_cancel {k a b : Byte} (hk : k ≠ 0x00#8) (h : gfMul k a = gfMul k b) : a = b := by
  have undo (c : Byte) : gfMul (gfInv k) (gfMul k c) = c := by
    rw [← gfMul_assoc, gfMul_comm (gfInv k), gfMul_gfInv k hk, gfMul_one_left]
  rw [← undo a, h, undo]

theorem unit_constant_ne_zero : ∀ k ∈ [2#8, 3#8, 9#8, 11#8, 13#8, 14#8], k ≠ 0x00#8 := by decide

/-- Settles O17: linearity by Horner's rule, and injectivity since each constant has an inverse. -/
theorem fieldMultiplicationIsLinear : Obligations.FieldMultiplicationIsLinear :=
  ⟨gfMul_xor_right, gfMul_xor_left, fun k a => ⟨gfMul_zero_right k, gfMul_one_left a⟩,
    fun k hk _ _ h => gfMul_left_cancel (unit_constant_ne_zero k hk) h⟩

/-! ## The units are products with their constants

The constant of a unit is a sum of powers of `x`, and the product is taken power by power (R113 to R118). -/

theorem gfMul_two (a : Byte) : gfMul 2#8 a = xtime a := by
  rw [show 2#8 = xtime 1#8 by decide, gfMul_xtime_left, gfMul_one_left]

theorem gfMul_four (a : Byte) : gfMul 4#8 a = xtime (xtime a) := by
  rw [show 4#8 = xtime 2#8 by decide, gfMul_xtime_left, gfMul_two]

theorem gfMul_eight (a : Byte) : gfMul 8#8 a = x8 a := by
  rw [show 8#8 = xtime 4#8 by decide, gfMul_xtime_left, gfMul_four, x8]

theorem mul2_eq (a : Byte) : mul2 a = gfMul 2#8 a := (gfMul_two a).symm

theorem mul3_eq (a : Byte) : mul3 a = gfMul 3#8 a := by
  rw [show 3#8 = 2#8 ^^^ 1#8 by decide, gfMul_xor_left, gfMul_two, gfMul_one_left, mul3]

theorem mul9_eq (a : Byte) : mul9 a = gfMul 9#8 a := by
  rw [show 9#8 = 8#8 ^^^ 1#8 by decide, gfMul_xor_left, gfMul_eight, gfMul_one_left, mul9]

theorem mul11_eq (a : Byte) : mul11 a = gfMul 11#8 a := by
  rw [show 11#8 = 8#8 ^^^ 2#8 ^^^ 1#8 by decide, gfMul_xor_left, gfMul_xor_left, gfMul_eight, gfMul_two,
    gfMul_one_left, mul11]

theorem mul13_eq (a : Byte) : mul13 a = gfMul 13#8 a := by
  rw [show 13#8 = 8#8 ^^^ 4#8 ^^^ 1#8 by decide, gfMul_xor_left, gfMul_xor_left, gfMul_eight, gfMul_four,
    gfMul_one_left, mul13]

theorem mul14_eq (a : Byte) : mul14 a = gfMul 14#8 a := by
  rw [show 14#8 = 8#8 ^^^ 4#8 ^^^ 2#8 by decide, gfMul_xor_left, gfMul_xor_left, gfMul_eight, gfMul_four,
    gfMul_two, mul14]

theorem units_eq_map_gfMul :
    [mul2, mul3, mul9, mul11, mul13, mul14] = [2#8, 3#8, 9#8, 11#8, 13#8, 14#8].map gfMul := by
  rw [funext mul2_eq, funext mul3_eq, funext mul9_eq, funext mul11_eq, funext mul13_eq, funext mul14_eq]
  rfl

/-- Each unit is multiplication by a non-zero constant. -/
theorem unit_eq_gfMul : ∀ f ∈ [mul2, mul3, mul9, mul11, mul13, mul14], ∃ k : Byte, k ≠ 0x00#8 ∧ f = gfMul k := by
  rw [units_eq_map_gfMul]
  exact List.forall_mem_map.2 fun k hk => ⟨k, unit_constant_ne_zero k hk, rfl⟩

/-- R112: the bits move up by one, and bit 7 is added to bits 0, 1, 3 and 4. -/
theorem xtime_getLsbD (a : Byte) {i : Nat} (hi : i < 8) :
    (xtime a).getLsbD i = ((decide (0 < i) && a.getLsbD (i - 1)) ^^ ((0x1B#8).getLsbD i && a.getLsbD 7)) := by
  rw [xtime, BitVec.getLsbD_xor, BitVec.getLsbD_shiftLeft]
  cases a.getLsbD 7 <;> simp [hi, Nat.pos_iff_ne_zero]

/-- R119, entry (0,0) of the product of the matrices of R173 and R171 (42_round_primitives.md): `14*2 + 11 + 13 + 9*3`
is 1. -/
theorem mul_units_matrix_entry (a : Byte) : mul14 (mul2 a) ^^^ mul11 a ^^^ mul13 a ^^^ mul9 (mul3 a) = a := by
  have hk : gfMul 14#8 2#8 ^^^ 11#8 ^^^ 13#8 ^^^ gfMul 9#8 3#8 = 1#8 := by decide +kernel
  calc mul14 (mul2 a) ^^^ mul11 a ^^^ mul13 a ^^^ mul9 (mul3 a)
      = gfMul (gfMul 14#8 2#8 ^^^ 11#8 ^^^ 13#8 ^^^ gfMul 9#8 3#8) a := by
        simp only [mul2_eq, mul3_eq, mul9_eq, mul11_eq, mul13_eq, mul14_eq, gfMul_xor_left, gfMul_assoc]
    _ = a := by rw [hk, gfMul_one_left]

/-- Settles O14: `xtime` by its bits, the identities by sums of `xtime` powers and one product of constants, injectivity
since each unit is a product with a non-zero constant. -/
theorem unitIdentitiesHold : Obligations.UnitIdentitiesHold := by
  refine ⟨fun a => ?_, fun a => ⟨rfl, rfl, ?_, ?_, rfl, mul_units_matrix_entry a⟩, fun f hf => ?_⟩
  · simp [-BitVec.getLsbD_eq_getElem, xtime_getLsbD]
  · simp only [mul11, mul9, mul2]; ac_rfl
  · simp only [mul13, mul9, mul2]; ac_rfl
  · obtain ⟨k, hk, rfl⟩ := unit_eq_gfMul f hf
    exact ⟨gfMul_zero_right k, fun _ _ h => gfMul_left_cancel hk h⟩

/-- Settles O15: the grids entry by entry, the products by the constant's powers of `x`. -/
theorem multiplyUnitsHoldTheirGrids : Obligations.MultiplyUnitsHoldTheirGrids :=
  ⟨by decide +kernel, by decide +kernel, by decide +kernel, by decide +kernel, by decide +kernel, by decide +kernel,
    fun a => ⟨mul2_eq a, mul3_eq a, mul9_eq a, mul11_eq a, mul13_eq a, mul14_eq a⟩,
    fun _ => ⟨rfl, rfl, rfl, rfl, rfl, rfl⟩⟩

/-! ## The substitution tables -/

@[simp] theorem invSbox_sbox : ∀ a : Byte, invSbox (sbox a) = a := by decide +kernel

@[simp] theorem sbox_invSbox : ∀ a : Byte, sbox (invSbox a) = a := by decide +kernel

theorem sbox_ne_self : ∀ a : Byte, sbox a ≠ a := by decide +kernel

/-- R124: each round constant is `x` times the one before. -/
theorem rcon_succ : ∀ i < 10, 1 ≤ i → rcon (i + 1) = xtime (rcon i) := by decide

/-- Settles O16: the S-box is the affine map of `gfInv`, and `gfInv` is the field inverse. -/
theorem substitutionTablesAreAsConstructed : Obligations.SubstitutionTablesAreAsConstructed :=
  ⟨fun a => ⟨gfInv a, fun h => h ▸ gfInv_zero, gfMul_gfInv a, sbox_eq_sboxAffine_gfInv a⟩,
    fun a => ⟨invSbox_sbox a, sbox_invSbox a, sbox_ne_self a⟩, rfl, rfl, rfl, rfl,
    fun i hlo hhi => rcon_succ i hhi hlo, rfl⟩

/-! ## The unit-lookup commands -/

/-- A unit lookup on another number of bytes (R272). -/
theorem unitCommand_fail (f : Byte → Byte) {inp : List Byte} (s : State) (h : inp.length ≠ 1) :
    unitCommand f inp s = .next (s.withResponse (some ⟨.errPayloadLength, []⟩)) := checkLength_fail s _ h

/-- Settles O18: each command is a unit lookup in its table. -/
theorem sboxCommandsLookUpOneByte : Obligations.SboxCommandsLookUpOneByte :=
  ⟨fun a s => ⟨unitCommand_byte sbox a s, unitCommand_byte invSbox a s, sbox_ne_self a⟩,
    fun _ s h => ⟨unitCommand_fail sbox s h, unitCommand_fail invSbox s h⟩, by decide +kernel, by decide +kernel⟩

/-- A unit lookup in a unit that is a product. -/
theorem unitCommand_product {f : Byte → Byte} {k : Byte} (hf : ∀ a, f a = gfMul k a) (a : Byte) (s : State) :
    unitCommand f [a] s = .next (s.withResponse (some ⟨.ok, [gfMul k a]⟩)) := by
  rw [unitCommand_byte, hf]

/-- Settles O19: each command looks its byte up in its unit, and the unit is the product. -/
theorem multiplyCommandsMultiplyOneByte : Obligations.MultiplyCommandsMultiplyOneByte := by
  refine ⟨fun a s => ⟨unitCommand_product mul2_eq a s, unitCommand_product mul3_eq a s,
    unitCommand_product mul9_eq a s, unitCommand_product mul11_eq a s, unitCommand_product mul13_eq a s,
    unitCommand_product mul14_eq a s⟩, fun inp s h => ?_, by decide +kernel⟩
  simp only [List.forall_mem_cons, exec_gfMul2, exec_gfMul3, exec_gfMul9, exec_gfMul11, exec_gfMul13, exec_gfMul14,
    unitCommand_fail _ s h]
  exact ⟨rfl, rfl, rfl, rfl, rfl, rfl, nofun⟩

end Sys2Proof.Machine

/-! The key expansion read by index, the bytes of its round keys, and the claims of 41_key_schedule.md. -/

namespace Sys2Proof.Machine

open Sys2Proof

/-! ## The recurrence -/

/-- Each word the loop adds satisfies the recurrence of R144 in the finished list, since the words it was made of are
never changed afterwards. -/
theorem expandBy_recurrence {n : Nat} (more : Nat) {w : List Word} {c : Nat} (hn : 0 < n) (hw : n ≤ w.length)
    (hlo : w.length ≤ c) (hhi : c < w.length + more) :
    (expandBy n more w).getD c Word.zero =
      ((expandBy n more w).getD (c - n) Word.zero).xor
        (scheduleTerm n c ((expandBy n more w).getD (c - 1) Word.zero)) := by
  induction more generalizing w with
  | zero => omega
  | succ more ih =>
    obtain rfl | hlt := hlo.eq_or_lt
    · have hkept (d : Nat) (hd : d < w.length) : (expandBy n (more + 1) w).getD d Word.zero = w.getD d Word.zero :=
        expandBy_getD n (more + 1) w d hd
      have hnew : (expandBy n (more + 1) w).getD w.length Word.zero = nextWord n w := by
        rw [expandBy, expandBy_getD _ _ _ _ (by simp)]
        simp
      rw [hnew, hkept _ (by omega), hkept _ (by omega), nextWord]
    · exact ih (w := w ++ [nextWord n w]) (by simp; omega) (by simpa using hlt) (by simp; omega)

theorem keyExpansion_eq {n : Nat} {key : List Byte} (h : key.length = 4 * n) :
    keyExpansion key = expandBy n (4 * (n + 7) - n) (keyWords n key) := by
  rw [keyExpansion, h, Nat.mul_div_cancel_left n (by decide)]

/-- The first words are the key (R143). -/
theorem keyExpansion_getD_key {n : Nat} {key : List Byte} (h : key.length = 4 * n) {i : Nat} (hi : i < n) :
    (keyExpansion key).getD i Word.zero = payloadWord key (4 * i) := by
  rw [keyExpansion_eq h, expandBy_getD _ _ _ _ (by simpa using hi)]
  simp [keyWords, hi]

/-- The later words satisfy the recurrence (R144). -/
theorem keyExpansion_recurrence {n : Nat} {key : List Byte} (hn : 0 < n) (h : key.length = 4 * n) {c : Nat}
    (hlo : n ≤ c) (hhi : c < 4 * (n + 7)) :
    (keyExpansion key).getD c Word.zero =
      ((keyExpansion key).getD (c - n) Word.zero).xor
        (scheduleTerm n c ((keyExpansion key).getD (c - 1) Word.zero)) := by
  rw [keyExpansion_eq h]
  exact expandBy_recurrence _ hn (by simp) (by simpa using hlo) (by simp; omega)

/-- Settles O28: the loop of R144 leaves the key words in place and adds each later word by the recurrence. -/
theorem keyExpansionSatisfiesTheRecurrence : Obligations.KeyExpansionSatisfiesTheRecurrence := by
  intro n key hmem hkey
  have hn : 0 < n := by
    simp only [List.mem_cons, List.not_mem_nil, or_false] at hmem
    omega
  exact ⟨keyExpansion_length n key hkey, fun _ hi => keyExpansion_getD_key hkey hi,
    fun _ hlo hhi => keyExpansion_recurrence hn hkey hlo hhi⟩

/-! ## Words and round keys as bytes -/

/-- The words of the key laid end to end are the key (R143). -/
theorem keyWords_flatMap_bytes {n : Nat} {key : List Byte} (h : key.length = 4 * n) :
    (keyWords n key).flatMap Word.bytes = key := by
  induction n generalizing key with
  | zero => exact (List.eq_nil_of_length_eq_zero h).symm
  | succ n ih =>
    match key, h with
    | a0 :: a1 :: a2 :: a3 :: key, h =>
      have hfirst : keyWords (n + 1) (a0 :: a1 :: a2 :: a3 :: key) = ⟨a0, a1, a2, a3⟩ :: keyWords n key := by
        rw [keyWords, List.range_succ_eq_map, List.map_cons, List.map_map]
        rfl
      have hrest : key.length = 4 * n := by simp only [List.length_cons] at h; omega
      rw [hfirst, List.flatMap_cons, ih hrest]
      rfl

/-- The expansion laid end to end begins with the key. -/
theorem key_prefix_keyExpansion_bytes {n : Nat} {key : List Byte} (h : key.length = 4 * n) :
    key <+: (keyExpansion key).flatMap Word.bytes := by
  have hp : keyWords n key <+: keyExpansion key := keyExpansion_eq h ▸ expandBy_prefix _ _ _
  simpa only [keyWords_flatMap_bytes h] using hp.flatMap Word.bytes

/-- The round keys laid end to end are the schedule's words laid end to end (R146, R148). -/
theorem flatMap_roundKey_bytes {m : Nat} {w : List Word} (h : w.length = 4 * m) :
    ((List.range m).flatMap fun r => (roundKey w r).bytes) = w.flatMap Word.bytes := by
  induction m generalizing w with
  | zero => rw [List.eq_nil_of_length_eq_zero h]; rfl
  | succ m ih =>
    match w, h with
    | x0 :: x1 :: x2 :: x3 :: w, h =>
      have hshift (r : Nat) : roundKey (x0 :: x1 :: x2 :: x3 :: w) (r + 1) = roundKey w r := rfl
      have hrest : w.length = 4 * m := by simp only [List.length_cons] at h; omega
      rw [List.range_succ_eq_map, List.flatMap_cons, List.flatMap_map]
      simp only [hshift, ih hrest]
      rfl

/-- Byte `4*j + i` of a block is byte `i` of its column `j` (00_scope.md rule R10). -/
theorem payloadByte_blockBytes (b : Block) {i : Nat} (hi : i < 4) :
    payloadByte b.bytes i = payloadByte b.c0.bytes i ∧
    payloadByte b.bytes (4 + i) = payloadByte b.c1.bytes i ∧
    payloadByte b.bytes (8 + i) = payloadByte b.c2.bytes i ∧
    payloadByte b.bytes (12 + i) = payloadByte b.c3.bytes i := by
  interval_cases i <;> exact ⟨rfl, rfl, rfl, rfl⟩

theorem payloadByte_roundKey (w : List Word) (r : Nat) {i j : Nat} (hi : i < 4) (hj : j < 4) :
    payloadByte (roundKey w r).bytes (4 * j + i) = payloadByte (w.getD (4 * r + j) Word.zero).bytes i := by
  obtain ⟨h0, h1, h2, h3⟩ := payloadByte_blockBytes (roundKey w r) hi
  match j, hj with
  | 0, _ => rw [Nat.mul_zero, Nat.zero_add, h0]; rfl
  | 1, _ => exact h1
  | 2, _ => exact h2
  | 3, _ => exact h3

/-- Settles O29: the word functions by definition, the layout of a round key column by column. -/
theorem wordFunctionsAndRoundKeysAreByteWise : Obligations.WordFunctionsAndRoundKeysAreByteWise :=
  ⟨fun _ _ _ _ => ⟨rfl, rfl⟩, fun _ _ _ => rfl, rfl, by decide, by decide, rfl,
    fun w r _ _ hi hj _ => payloadByte_roundKey w r hi hj, by decide +kernel⟩

/-! ## The checks of a key, and `KEYEXPAND` -/

theorem checkKey_badMode (inp : List Byte) (s : State) (k : Result) :
    checkKey 3#2 inp s k = .next (s.withResponse (some ⟨.errBadMode, []⟩)) := if_pos rfl

theorem checkKey_keyLength {ks : BitVec 2} {inp : List Byte} (s : State) (k : Result) (h3 : ks ≠ 3#2)
    (hl : inp.length ≠ 16 + 8 * ks.toNat) :
    checkKey ks inp s k = .next (s.withResponse (some ⟨.errKeyLength, []⟩)) := by
  obtain ⟨h, _⟩ | ⟨_, _, e⟩ | ⟨_, h, _⟩ := checkKey_cases ks inp s k
  · exact absurd h h3
  · exact e
  · exact absurd h hl

theorem checkKey_pass {ks : BitVec 2} {inp : List Byte} (s : State) (k : Result) (h3 : ks ≠ 3#2)
    (hl : inp.length = 16 + 8 * ks.toNat) : checkKey ks inp s k = k := by
  obtain ⟨h, _⟩ | ⟨_, h, _⟩ | ⟨_, _, e⟩ := checkKey_cases ks inp s k
  · exact absurd h h3
  · exact absurd hl h
  · exact e

/-- `KEYEXPAND` of a legal key answers the round keys of its payload, in every state (R148). -/
theorem exec_keyExpand_ok {ks : BitVec 2} {inp : List Byte} (s : State) (h3 : ks ≠ 3#2)
    (hl : inp.length = 16 + 8 * ks.toNat) :
    exec (.keyExpand ks inp) s =
      .next (s.withResponse (some ⟨.ok, roundKeyBytes (keyExpansion inp) (rounds ks)⟩)) := by
  rw [exec_keyExpand, checkKey_pass s _ h3 hl, respond_eq]

/-- The answer of `KEYEXPAND` is the words of the expansion in order. -/
theorem roundKeyBytes_keyExpansion {ks : BitVec 2} {key : List Byte} (h : key.length = keySize ks) :
    roundKeyBytes (keyExpansion key) (rounds ks) = (keyExpansion key).flatMap Word.bytes :=
  flatMap_roundKey_bytes (keyExpansion_length_of_mode h)

/-- Settles O30: the checks of a key, then round keys that are the expansion's words, the first of them the payload. -/
theorem keyExpandAnswersTheSchedule : Obligations.KeyExpandAnswersTheSchedule := by
  refine ⟨fun inp s => exec_keyExpand 3#2 inp s ▸ checkKey_badMode inp s _,
    fun ks inp s h3 hl => exec_keyExpand ks inp s ▸ checkKey_keyLength s _ h3 hl,
    fun ks inp s h3 hl => ⟨_, exec_keyExpand_ok s h3 hl, ?_⟩,
    fun s => ⟨_, exec_keyExpand_ok s (by decide) (by decide), by decide +kernel, by decide +kernel⟩⟩
  obtain ⟨hsize, hrounds, -⟩ := mode_parameters ks
  have hkey : inp.length = keySize ks := hl.trans hsize.symm
  have hnr : rounds ks + 1 = 11 + 2 * ks.toNat := by omega
  have hwords := roundKeyBytes_keyExpansion hkey
  refine ⟨hwords, by rw [roundKeyBytes, hnr], by rw [roundKeyBytes_length, hnr], ?_⟩
  rw [hwords, ← hl]
  exact (List.prefix_iff_eq_take.1 (key_prefix_keyExpansion_bytes hkey)).symm

end Sys2Proof.Machine

/-! MixColumns and InvMixColumns as products with their matrices, the places the byte moves take their bytes from, and
the claims of 42_round_primitives.md. -/

namespace Sys2Proof.Machine

open Sys2Proof

/-! ## A 4x4 matrix times a column -/

/-- A matrix times a column vector, in GF(2^8) (R171). -/
def columnTimes (m : List (List Byte)) (x : Word) : Word :=
  ⟨matrixTimes m x.bytes 0, matrixTimes m x.bytes 1, matrixTimes m x.bytes 2, matrixTimes m x.bytes 3⟩

/-- A matrix times each column of a block. -/
def blockTimes (m : List (List Byte)) (b : Block) : Block :=
  ⟨columnTimes m b.c0, columnTimes m b.c1, columnTimes m b.c2, columnTimes m b.c3⟩

/-- Row `i` of a matrix times a column, written out. -/
theorem matrixTimes_eq (m : List (List Byte)) (a : List Byte) (i : Nat) :
    matrixTimes m a i =
      gfMul ((m.getD i []).getD 0 0) (a.getD 0 0) ^^^ gfMul ((m.getD i []).getD 1 0) (a.getD 1 0) ^^^
        gfMul ((m.getD i []).getD 2 0) (a.getD 2 0) ^^^ gfMul ((m.getD i []).getD 3 0) (a.getD 3 0) := by
  simp [matrixTimes, List.range_succ]

theorem matrixTimes_bytes (m : List (List Byte)) (x : Word) (i : Nat) :
    matrixTimes m x.bytes i =
      gfMul ((m.getD i []).getD 0 0) x.a0 ^^^ gfMul ((m.getD i []).getD 1 0) x.a1 ^^^
        gfMul ((m.getD i []).getD 2 0) x.a2 ^^^ gfMul ((m.getD i []).getD 3 0) x.a3 := matrixTimes_eq m x.bytes i

theorem payloadByte_columnTimes (m : List (List Byte)) (x : Word) {i : Nat} (hi : i < 4) :
    payloadByte (columnTimes m x).bytes i = matrixTimes m x.bytes i := by
  interval_cases i <;> rfl

/-- Byte `i` of column `c` of the product is row `i` of the matrix times column `c` of the block. -/
theorem payloadByte_blockTimes (m : List (List Byte)) (b : Block) {c i : Nat} (hc : c < 4) (hi : i < 4) :
    payloadByte (blockTimes m b).bytes (4 * c + i) = matrixTimes m ((b.bytes.drop (4 * c)).take 4) i := by
  obtain ⟨h0, h1, h2, h3⟩ := payloadByte_blockBytes (blockTimes m b) hi
  match c, hc with
  | 0, _ => rw [Nat.mul_zero, Nat.zero_add, h0]; exact payloadByte_columnTimes m b.c0 hi
  | 1, _ => exact h1.trans (payloadByte_columnTimes m b.c1 hi)
  | 2, _ => exact h2.trans (payloadByte_columnTimes m b.c2 hi)
  | 3, _ => exact h3.trans (payloadByte_columnTimes m b.c3 hi)

/-! ### Linearity -/

theorem matrixTimes_xor (m : List (List Byte)) (x y : Word) (i : Nat) :
    matrixTimes m (x.xor y).bytes i = matrixTimes m x.bytes i ^^^ matrixTimes m y.bytes i := by
  simp only [matrixTimes_bytes, Word.xor, gfMul_xor_right]
  ac_rfl

theorem columnTimes_xor (m : List (List Byte)) (x y : Word) :
    columnTimes m (x.xor y) = (columnTimes m x).xor (columnTimes m y) := by
  simp only [columnTimes, matrixTimes_xor]
  rfl

theorem blockTimes_xor (m : List (List Byte)) (a b : Block) :
    blockTimes m (a.xor b) = (blockTimes m a).xor (blockTimes m b) := by
  simp only [blockTimes, Block.xor, columnTimes_xor]

/-! ### Inverse matrices -/

@[simp] theorem gfMul_zero_left (a : Byte) : gfMul 0#8 a = 0#8 := by rw [gfMul_comm, gfMul_zero_right]

/-- Products of matrices are taken column by column: `m` times (`n` times `x`) is the sum of the products of `m` with
`n`'s columns, each times its byte of `x`. -/
theorem matrixTimes_columnTimes (m n : List (List Byte)) (x : Word) (i : Nat) :
    matrixTimes m (columnTimes n x).bytes i =
      gfMul (matrixTimes m (n.map fun row => row.getD 0 0) i) x.a0 ^^^
        gfMul (matrixTimes m (n.map fun row => row.getD 1 0) i) x.a1 ^^^
        gfMul (matrixTimes m (n.map fun row => row.getD 2 0) i) x.a2 ^^^
        gfMul (matrixTimes m (n.map fun row => row.getD 3 0) i) x.a3 := by
  have hentry (j k : Nat) : (n.map fun row => row.getD j 0).getD k 0 = (n.getD k []).getD j 0 :=
    List.getD_map n [] (f := fun row => row.getD j 0)
  rw [matrixTimes_bytes]
  simp only [columnTimes, matrixTimes_bytes, matrixTimes_eq m (n.map _), hentry, gfMul_xor_left, gfMul_xor_right,
    gfMul_assoc]
  ac_rfl

/-- The entries of the product of `m` and `n` are those of the identity. -/
def IsLeftInverse (m n : List (List Byte)) : Prop :=
  ∀ i j : Fin 4, matrixTimes m (n.map fun row => row.getD j.val 0) i.val = if i = j then 0x01#8 else 0x00#8

theorem columnTimes_cancel {m n : List (List Byte)} (h : IsLeftInverse m n) (x : Word) :
    columnTimes m (columnTimes n x) = x := by
  have hrow (i : Fin 4) : matrixTimes m (columnTimes n x).bytes i.val = payloadByte x.bytes i.val := by
    have h0 : matrixTimes m (n.map fun row => row.getD 0 0) i.val = _ := h i 0
    have h1 : matrixTimes m (n.map fun row => row.getD 1 0) i.val = _ := h i 1
    have h2 : matrixTimes m (n.map fun row => row.getD 2 0) i.val = _ := h i 2
    have h3 : matrixTimes m (n.map fun row => row.getD 3 0) i.val = _ := h i 3
    rw [matrixTimes_columnTimes, h0, h1, h2, h3]
    fin_cases i <;> simp [payloadByte, Word.bytes]
  exact (Word.mk.injEq ..).mpr ⟨hrow 0, hrow 1, hrow 2, hrow 3⟩

theorem blockTimes_cancel {m n : List (List Byte)} (h : IsLeftInverse m n) (b : Block) :
    blockTimes m (blockTimes n b) = b := by
  simp only [blockTimes, columnTimes_cancel h]

/-! ### The two matrices -/

theorem mixColumns_eq_blockTimes : mixColumns = blockTimes mixMatrix := by
  have hcolumn (x : Word) : mixColumn x = columnTimes mixMatrix x := by
    simp [mixColumn, columnTimes, matrixTimes_bytes, mixMatrix, mul2_eq, mul3_eq]
  funext b
  simp only [mixColumns, blockTimes, hcolumn]

theorem invMixColumns_eq_blockTimes : invMixColumns = blockTimes invMixMatrix := by
  have hcolumn (x : Word) : invMixColumn x = columnTimes invMixMatrix x := by
    simp [invMixColumn, columnTimes, matrixTimes_bytes, invMixMatrix, mul9_eq, mul11_eq, mul13_eq, mul14_eq]
  funext b
  simp only [invMixColumns, blockTimes, hcolumn]

/-- Settles O26: each entry is a sum of four products of constants. -/
theorem mixMatricesAreInverse : Obligations.MixMatricesAreInverse := by
  unfold Obligations.MixMatricesAreInverse
  decide +kernel

theorem invMixMatrix_isLeftInverse : IsLeftInverse invMixMatrix mixMatrix := fun i j => (mixMatricesAreInverse i j).1

theorem mixMatrix_isLeftInverse : IsLeftInverse mixMatrix invMixMatrix := fun i j => (mixMatricesAreInverse i j).2

/-! ## The primitives on blocks -/

theorem invMixColumns_mixColumns (b : Block) : invMixColumns (mixColumns b) = b := by
  rw [mixColumns_eq_blockTimes, invMixColumns_eq_blockTimes, blockTimes_cancel invMixMatrix_isLeftInverse]

theorem mixColumns_invMixColumns (b : Block) : mixColumns (invMixColumns b) = b := by
  rw [mixColumns_eq_blockTimes, invMixColumns_eq_blockTimes, blockTimes_cancel mixMatrix_isLeftInverse]

theorem mapBytes_cancel {f g : Byte → Byte} (h : ∀ a, f (g a) = a) (b : Block) : mapBytes f (mapBytes g b) = b := by
  simp only [mapBytes, mapWord, h]

theorem invSubBytes_subBytes (b : Block) : invSubBytes (subBytes b) = b := mapBytes_cancel invSbox_sbox b

theorem subBytes_invSubBytes (b : Block) : subBytes (invSubBytes b) = b := mapBytes_cancel sbox_invSbox b

/-- Settles O25: the S-boxes are inverse and so are the two matrices; the other primitives move bytes there and back or
cancel an `XOR`. -/
theorem primitivesHaveExactInverses : Obligations.PrimitivesHaveExactInverses := fun b k =>
  ⟨invSubBytes_subBytes b, subBytes_invSubBytes b, rfl, rfl, rfl, invMixColumns_mixColumns b,
    mixColumns_invMixColumns b, Block.xor_xor_cancel b k⟩

/-- Settles O27: byte moves commute with a bytewise map and with `XOR` by definition, the matrix products are linear, and
a substitution is not, since it does not send zero to zero. -/
theorem primitivesCommuteAndAreLinear : Obligations.PrimitivesCommuteAndAreLinear := by
  refine ⟨fun _ => ⟨rfl, rfl⟩, fun _ => ⟨rfl, rfl⟩, ?_, ⟨Block.zero, Block.zero, by decide +kernel⟩,
    ⟨Block.zero, Block.zero, by decide +kernel⟩⟩
  rw [mixColumns_eq_blockTimes, invMixColumns_eq_blockTimes]
  simp only [List.forall_mem_cons]
  exact ⟨fun _ _ => rfl, fun _ _ => rfl, fun _ _ => rfl, blockTimes_xor mixMatrix, blockTimes_xor invMixMatrix,
    nofun⟩

/-! ## The commands -/

/-- A block primitive rejects every other number of bytes (R272). -/
theorem rejectsLength_of_block {i : Instr} {f : Block → Block} {inp : List Byte}
    (hi : ∀ s, exec i s = blockCommand f inp s) (h : inp.length ≠ 16) : rejectsLength i :=
  fun s => (hi s).trans (checkLength_fail s _ h)

/-- Settles O20: a table applied to each byte of the block is applied to each byte of the payload. -/
theorem subBytesCommandsSubstituteEachByte : Obligations.SubBytesCommandsSubstituteEachByte := by
  refine ⟨fun inp s h => ?_, fun inp h => ⟨rejectsLength_of_block (exec_subBytes inp) h,
    rejectsLength_of_block (exec_invSubBytes inp) h⟩, sbox_ne_self, by decide, by decide, by decide, by decide,
    by decide⟩
  obtain ⟨b, rfl⟩ := exists_block_of_length inp h
  exact ⟨blockCommand_bytes subBytes b s, blockCommand_bytes invSubBytes b s⟩

/-! ### Byte moves

A byte move picks the bytes of its payload by a list of their indices. -/

/-- The permutation `P` of R164: output byte `k` is input byte `P[k]`. -/
def shiftRowsIndices : List Nat := [0, 5, 10, 15, 4, 9, 14, 3, 8, 13, 2, 7, 12, 1, 6, 11]

/-- The permutation `Q` of R166. -/
def invShiftRowsIndices : List Nat := [0, 13, 10, 7, 4, 1, 14, 11, 8, 5, 2, 15, 12, 9, 6, 3]

/-- The permutation of R168. -/
def transposeIndices : List Nat := [0, 4, 8, 12, 1, 5, 9, 13, 2, 6, 10, 14, 3, 7, 11, 15]

theorem shiftRows_bytes (b : Block) : (shiftRows b).bytes = shiftRowsIndices.map (payloadByte b.bytes) := rfl

theorem invShiftRows_bytes (b : Block) : (invShiftRows b).bytes = invShiftRowsIndices.map (payloadByte b.bytes) := rfl

theorem transpose_bytes (b : Block) : (transpose b).bytes = transposeIndices.map (payloadByte b.bytes) := rfl

theorem payloadByte_map_payloadByte (inp : List Byte) {p : List Nat} {k : Nat} (h : k < p.length) :
    payloadByte (p.map (payloadByte inp)) k = payloadByte inp (p.getD k 0) := by
  simp [payloadByte, h]

theorem shiftRowsIndices_getD : ∀ r < 4, ∀ c < 4, shiftRowsIndices.getD (4 * c + r) 0 = 4 * ((c + r) % 4) + r := by
  decide

theorem invShiftRowsIndices_getD :
    ∀ r < 4, ∀ c < 4, invShiftRowsIndices.getD (4 * c + r) 0 = 4 * ((c + 4 - r) % 4) + r := by
  decide

theorem transposeIndices_getD : ∀ k < 16, transposeIndices.getD k 0 = 4 * (k % 4) + k / 4 := by
  decide

/-- Settles O21: the commands pick their bytes by `P` and `Q`, whose entries the index formulas give. -/
theorem shiftRowsCommandsRotateEachRow : Obligations.ShiftRowsCommandsRotateEachRow := by
  refine ⟨fun inp s h => ?_, fun inp h => ⟨rejectsLength_of_block (exec_shiftRows inp) h,
    rejectsLength_of_block (exec_invShiftRows inp) h⟩, fun _ => rfl⟩
  obtain ⟨b, rfl⟩ := exists_block_of_length inp h
  refine ⟨_, _, blockCommand_bytes shiftRows b s, blockCommand_bytes invShiftRows b s, rfl, rfl,
    fun r c hr hc => ?_, shiftRows_bytes b, invShiftRows_bytes b⟩
  have hk : 4 * c + r < 16 := by omega
  rw [shiftRows_bytes, invShiftRows_bytes, payloadByte_map_payloadByte _ hk, payloadByte_map_payloadByte _ hk,
    shiftRowsIndices_getD r hr c hc, invShiftRowsIndices_getD r hr c hc]
  exact ⟨rfl, rfl⟩

/-- Settles O22: the command picks its bytes by an index list, whose entries the index formula gives. -/
theorem transposeCommandExchangesRowsAndColumns : Obligations.TransposeCommandExchangesRowsAndColumns := by
  refine ⟨fun inp s h => ?_, fun inp h => rejectsLength_of_block (exec_transpose inp) h⟩
  obtain ⟨b, rfl⟩ := exists_block_of_length inp h
  have hbyte (k : Nat) (hk : k < 16) :
      payloadByte (transpose b).bytes k = payloadByte b.bytes (4 * (k % 4) + k / 4) := by
    rw [transpose_bytes, payloadByte_map_payloadByte _ hk, transposeIndices_getD k hk]
  refine ⟨_, blockCommand_bytes transpose b s, rfl, fun r c hr hc => ?_, hbyte, transpose_bytes b⟩
  rw [hbyte _ (by omega), show (4 * r + c) % 4 = c by omega, show (4 * r + c) / 4 = r by omega]

/-! ### MixColumns and AddRoundKey -/

/-- Settles O23: the columns of the model are products with the matrices, for the units are products with constants. -/
theorem mixColumnsCommandsMultiplyByTheirMatrix : Obligations.MixColumnsCommandsMultiplyByTheirMatrix := by
  refine ⟨fun inp s h => ?_, fun inp h => ⟨rejectsLength_of_block (exec_mixColumns inp) h,
    rejectsLength_of_block (exec_invMixColumns inp) h⟩, by decide⟩
  obtain ⟨b, rfl⟩ := exists_block_of_length inp h
  refine ⟨_, _, blockCommand_bytes mixColumns b s, blockCommand_bytes invMixColumns b s, rfl, rfl,
    fun c i hc hi => ?_⟩
  rw [mixColumns_eq_blockTimes, invMixColumns_eq_blockTimes]
  exact ⟨payloadByte_blockTimes mixMatrix b hc hi, payloadByte_blockTimes invMixMatrix b hc hi⟩

/-- Payload bytes `n .. n+15` as a block, byte by byte (R84). -/
theorem payloadByte_payloadBlock (inp : List Byte) (n : Nat) {i : Nat} (hi : i < 16) :
    payloadByte (payloadBlock inp n).bytes i = payloadByte inp (n + i) := by
  interval_cases i <;> rfl

theorem payloadByte_xor (b k : Block) {i : Nat} (hi : i < 16) :
    payloadByte (b.xor k).bytes i = payloadByte b.bytes i ^^^ payloadByte k.bytes i := by
  interval_cases i <;> rfl

/-- `ADDROUNDKEY` answers the `XOR` of the two blocks its payload holds, in every state (R176). -/
theorem exec_addRoundKey_ok {inp : List Byte} (s : State) (h : inp.length = 32) :
    exec (.addRoundKey inp) s =
      .next (s.withResponse (some ⟨.ok, ((payloadBlock inp 0).xor (payloadBlock inp 16)).bytes⟩)) :=
  checkLength_pass s _ h

/-- Settles O24: the answer is a function of the payload, byte by byte; the corner cases are the laws of `XOR`. -/
theorem addRoundKeyCommandXorsThePayloadKey : Obligations.AddRoundKeyCommandXorsThePayloadKey := by
  refine ⟨fun inp s h => ⟨_, exec_addRoundKey_ok s h, rfl, fun i hi => ?_⟩, fun inp h s => checkLength_fail s _ h,
    fun b k => ⟨Block.xor_zero b, Block.xor_self b, Block.xor_comm b k⟩⟩
  rw [payloadByte_xor _ _ hi, payloadByte_payloadBlock _ _ hi, payloadByte_payloadBlock _ _ hi, Nat.zero_add]

end Sys2Proof.Machine

/-! The block functions round by round, what the engine commands answer in each of their cases, and the claims of
43_block_cipher_engine.md. -/

namespace Sys2Proof.Machine

open Sys2Proof

/-! ## One round and the round that undoes it -/

/-- Full round `r` of `Cipher` (R190). -/
def cipherRound (w : List Word) (r : Nat) (b : Block) : Block :=
  addRoundKey (mixColumns (shiftRows (subBytes b))) (roundKey w r)

/-- Round `r` of the loop of `InvCipher` (R191). -/
def invCipherRound (w : List Word) (r : Nat) (b : Block) : Block :=
  invSubBytes (invShiftRows (invMixColumns (addRoundKey b (roundKey w r))))

theorem cipherRounds_succ (w : List Word) (n : Nat) (b : Block) :
    cipherRounds w (n + 1) b = cipherRound w (n + 1) (cipherRounds w n b) := rfl

theorem invCipherRounds_succ (w : List Word) (n : Nat) (b : Block) :
    invCipherRounds w (n + 1) b = invCipherRounds w n (invCipherRound w (n + 1) b) := rfl

theorem addRoundKey_cancel (b k : Block) : addRoundKey (addRoundKey b k) k = b := Block.xor_xor_cancel b k

theorem invShiftRows_shiftRows (b : Block) : invShiftRows (shiftRows b) = b := rfl

theorem shiftRows_invShiftRows (b : Block) : shiftRows (invShiftRows b) = b := rfl

theorem invCipherRound_cipherRound (w : List Word) (r : Nat) (b : Block) :
    invCipherRound w r (cipherRound w r b) = b := by
  rw [invCipherRound, cipherRound, addRoundKey_cancel, invMixColumns_mixColumns, invShiftRows_shiftRows,
    invSubBytes_subBytes]

theorem cipherRound_invCipherRound (w : List Word) (r : Nat) (b : Block) :
    cipherRound w r (invCipherRound w r b) = b := by
  rw [cipherRound, invCipherRound, subBytes_invSubBytes, shiftRows_invShiftRows, mixColumns_invMixColumns,
    addRoundKey_cancel]

/-- The loop of `InvCipher` meets the rounds of `Cipher` last first. -/
theorem invCipherRounds_cipherRounds (w : List Word) (n : Nat) (b : Block) :
    invCipherRounds w n (cipherRounds w n b) = b := by
  induction n with
  | zero => rfl
  | succ n ih => rw [invCipherRounds_succ, cipherRounds_succ, invCipherRound_cipherRound, ih]

theorem cipherRounds_invCipherRounds (w : List Word) (n : Nat) (b : Block) :
    cipherRounds w n (invCipherRounds w n b) = b := by
  induction n generalizing b with
  | zero => rfl
  | succ n ih => rw [invCipherRounds_succ, cipherRounds_succ, ih, cipherRound_invCipherRound]

theorem invCipher_cipher (b : Block) (w : List Word) (nr : Nat) : invCipher (cipher b w nr) w nr = b := by
  rw [invCipher, cipher, addRoundKey_cancel, invShiftRows_shiftRows, invSubBytes_subBytes,
    invCipherRounds_cipherRounds, addRoundKey_cancel]

theorem cipher_invCipher (b : Block) (w : List Word) (nr : Nat) : cipher (invCipher b w nr) w nr = b := by
  rw [cipher, invCipher, addRoundKey_cancel, cipherRounds_invCipherRounds, subBytes_invSubBytes,
    shiftRows_invShiftRows, addRoundKey_cancel]

/-- Settles O32: the rounds cancel one by one, and so do the whitening and the last round, which has no matrix. -/
theorem cipherAndInvCipherAreInverse : Obligations.CipherAndInvCipherAreInverse :=
  fun b w nr => ⟨invCipher_cipher b w nr, cipher_invCipher b w nr⟩

/-! ## The working blocks -/

/-- The working block of the loop of `InvCipher` after its first `k` rounds `n, n-1, …, n-k+1`. -/
def invWorkingBlock (w : List Word) (n : Nat) (b : Block) : Nat → Block
  | 0 => b
  | k + 1 => invCipherRound w (n - k) (invWorkingBlock w n b k)

/-- After `k` rounds the loop has the rounds `m, …, 1` still to run. -/
theorem invCipherRounds_invWorkingBlock (w : List Word) (b : Block) (m k : Nat) :
    invCipherRounds w m (invWorkingBlock w (m + k) b k) = invCipherRounds w (m + k) b := by
  induction k generalizing m with
  | zero => rfl
  | succ k ih =>
    have hround : m + 1 + k - k = m + 1 := Nat.add_sub_cancel ..
    rw [← Nat.succ_add_eq_add_succ, ← ih (m + 1), invCipherRounds_succ, invWorkingBlock, hround]

/-- The loop of `InvCipher` counted down (R191): each working block is made of the one above it. -/
theorem exists_invWorkingBlocks (w : List Word) (n : Nat) (b : Block) :
    ∃ S : Nat → Block, S (n + 1) = b ∧ (∀ r, 1 ≤ r → r ≤ n → S r = invCipherRound w r (S (r + 1))) ∧
      S 1 = invCipherRounds w n b := by
  refine ⟨fun r => invWorkingBlock w n b (n + 1 - r), ?_, fun r hlo hhi => ?_, ?_⟩
  · simp only [Nat.sub_self, invWorkingBlock]
  · have hk : n + 1 - r = n + 1 - (r + 1) + 1 := by omega
    have hr : n - (n + 1 - (r + 1)) = r := by omega
    simp only [hk, invWorkingBlock, hr]
  · simpa only [Nat.zero_add, Nat.add_sub_cancel, invCipherRounds] using invCipherRounds_invWorkingBlock w b 0 n

/-- Settles O31: the working blocks of `Cipher` are its rounds so far; those of `InvCipher` are counted down. -/
theorem blockFunctionsRunTheirRounds : Obligations.BlockFunctionsRunTheirRounds := by
  refine ⟨fun b w nr _ => ⟨fun r => cipherRounds w r (addRoundKey b (roundKey w 0)), rfl, fun r hlo _ => ?_, rfl⟩,
    fun b w nr hnr => ?_⟩
  · obtain ⟨r, rfl⟩ := Nat.exists_eq_add_of_le' hlo
    rfl
  · obtain ⟨n, rfl⟩ := Nat.exists_eq_add_of_le' hnr
    obtain ⟨S, hfirst, hround, hlast⟩ := exists_invWorkingBlocks w n
      (invSubBytes (invShiftRows (addRoundKey b (roundKey w (n + 1)))))
    exact ⟨S, hfirst, hround, by rw [hlast]; rfl⟩

/-! ## `STATUS` -/

/-- The status register field by field (10_state.md rule R33). -/
theorem statusRegister_fields (s : State) :
    (statusRegister s).extractLsb' 4 4 = 0#4 ∧ (statusRegister s).getLsbD 3 = s.ready ∧
    (statusRegister s).getLsbD 2 = (s.ch == Chaining.cbc) ∧ (statusRegister s).extractLsb' 0 2 = s.ks := by
  obtain ⟨ready, ks, ch, _, _, _, _, _⟩ := s
  simp only [statusRegister]
  cases ready <;> cases ch <;> revert ks <;> decide

/-- The seven values of the status register in the states of the invariant (R33). -/
theorem statusRegister_mem_of_inv {s : State} (hs : s.Inv) :
    statusRegister s ∈ [0x00#8, 0x08#8, 0x09#8, 0x0A#8, 0x0C#8, 0x0D#8, 0x0E#8] := by
  cases hr : s.ready with
  | false =>
    obtain ⟨hks, hch, _⟩ := hs.1 hr
    simp only [statusRegister, hr, hks, hch]
    decide
  | true =>
    have hlegal : ∀ ks : BitVec 2, ks ≠ 3#2 → ∀ c ∈ [0, 1], BitVec.ofNat 8 (1 * 8 + c * 4 + ks.toNat) ∈
        [0x00#8, 0x08#8, 0x09#8, 0x0A#8, 0x0C#8, 0x0D#8, 0x0E#8] := by decide
    obtain ⟨h3, _⟩ := hs.2 hr
    rw [statusRegister, hr]
    exact hlegal s.ks h3 _ (by cases s.ch <;> decide)

theorem exec_status_ok (s : State) :
    exec (.status []) s = .next (s.withResponse (some ⟨.ok, [statusRegister s]⟩)) := rfl

/-- Settles O8: the answer is the status register, and its fields are read off it. -/
theorem statusReportsReadyAndMode : Obligations.StatusReportsReadyAndMode := by
  refine ⟨fun s => ?_, fun _ s h => checkLength_fail s _ h⟩
  obtain ⟨hzero, hready, hch, hks⟩ := statusRegister_fields s
  exact ⟨statusRegister s, exec_status_ok s, hzero, hready, hch, hks, statusRegister_mem_of_inv⟩

/-! ## `INIT` -/

section

variable {ks : BitVec 2} {inp : List Byte} {s : State}

theorem exec_init (ch : Chaining) (ks : BitVec 2) (inp : List Byte) (s : State) :
    exec (.init ch ks inp) s =
      checkKey ks inp s
        (if s.ready = true then raiseErr .errAlreadyConstructed s
         else respond [] (s.constructed ch ks inp (keyExpansion inp))) := rfl

theorem exec_init_badMode (ch : Chaining) (inp : List Byte) (s : State) :
    exec (.init ch 3#2 inp) s = .next (s.withResponse (some ⟨.errBadMode, []⟩)) :=
  (exec_init ch 3#2 inp s).trans (checkKey_badMode inp s _)

theorem exec_init_keyLength (ch : Chaining) (s : State) (h3 : ks ≠ 3#2) (hl : inp.length ≠ 16 + 8 * ks.toNat) :
    exec (.init ch ks inp) s = .next (s.withResponse (some ⟨.errKeyLength, []⟩)) := checkKey_keyLength s _ h3 hl

/-- `INIT` of a legal key on a constructed engine (R196). -/
theorem exec_init_alreadyConstructed (ch : Chaining) (h3 : ks ≠ 3#2) (hl : inp.length = 16 + 8 * ks.toNat)
    (hr : s.ready = true) :
    exec (.init ch ks inp) s = .next (s.withResponse (some ⟨.errAlreadyConstructed, []⟩)) :=
  (checkKey_pass s _ h3 hl).trans (if_pos hr)

/-- `INIT` of a legal key on an unconstructed engine (R196). -/
theorem exec_init_ok (ch : Chaining) (h3 : ks ≠ 3#2) (hl : inp.length = 16 + 8 * ks.toNat) (hr : s.ready = false) :
    exec (.init ch ks inp) s =
      .next ((s.constructed ch ks inp (keyExpansion inp)).withResponse (some ⟨.ok, []⟩)) :=
  (checkKey_pass s _ h3 hl).trans (if_neg (by rw [hr]; decide))

/-- The default is what stands past the end of a list. -/
theorem getD_eq_ite {α : Type} {l : List α} {n : Nat} (h : l.length = n) (i : Nat) (d : α) :
    l.getD i d = if i < n then l.getD i d else d := by
  split
  next => rfl
  next hi => exact List.getD_eq_default l d (by omega)

theorem constructed_key_eq (s : State) (ch : Chaining) (hl : inp.length = 16 + 8 * ks.toNat) (ws : List Word)
    (i : Fin 32) :
    (s.constructed ch ks inp ws).key[i] = if i.val < 16 + 8 * ks.toNat then payloadByte inp i.val else 0x00#8 :=
  (State.constructed_key_getElem s ch ks inp ws i.val i.isLt).trans (getD_eq_ite hl i.val 0#8)

theorem constructed_w_eq (s : State) (ch : Chaining) (hl : inp.length = 16 + 8 * ks.toNat) (c : Fin 60) :
    (s.constructed ch ks inp (keyExpansion inp)).w[c] =
      if c.val < 44 + 8 * ks.toNat then (keyExpansion inp).getD c.val Word.zero else Word.zero := by
  obtain ⟨hsize, -, hwords⟩ := mode_parameters ks
  have hlen : (keyExpansion inp).length = 44 + 8 * ks.toNat :=
    (keyExpansion_length_of_mode (hl.trans hsize.symm)).trans hwords
  exact (State.constructed_w_getElem s ch ks inp _ c.val c.isLt).trans (getD_eq_ite hlen c.val Word.zero)

end

/-- Settles O9: the checks in their order, then the writes field by field; the example's word is evaluated. -/
theorem initConstructsTheEngine : Obligations.InitConstructsTheEngine := by
  refine ⟨exec_init_badMode, fun ch _ _ s h3 hl => exec_init_keyLength ch s h3 hl,
    fun ch _ _ _ h3 hl hr => exec_init_alreadyConstructed ch h3 hl hr,
    fun ch ks inp s h3 hl hr => ⟨_, exec_init_ok ch h3 hl hr, rfl, rfl, rfl, rfl, rfl,
      constructed_key_eq s ch hl (keyExpansion inp), constructed_w_eq s ch hl, rfl⟩,
    fun s hr => ⟨_, exec_init_ok .ecb (by decide) (by decide) hr, ?_, exec_status_ok _⟩⟩
  have hword : (keyExpansion (hexBytes 16 0)).getD 4 Word.zero = ⟨0x62#8, 0x63#8, 0x63#8, 0x63#8⟩ := by decide +kernel
  rw [State.withResponse_w, State.constructed_w_getElem, hword]

/-! ## `ENC` and `DEC` -/

section

variable {inp : List Byte} {s : State}

/-- A block command on an unconstructed engine (R197, R198). -/
theorem checkBlock_notReady (k : Result) (hl : inp.length = 16) (hr : s.ready = false) :
    checkBlock inp s k = .next (s.withResponse (some ⟨.errNotReady, []⟩)) :=
  (checkLength_pass s _ hl).trans (if_pos hr)

theorem exec_enc_payloadLength (s : State) (hl : inp.length ≠ 16) :
    exec (.enc inp) s = .next (s.withResponse (some ⟨.errPayloadLength, []⟩)) := checkLength_fail s _ hl

theorem exec_dec_payloadLength (s : State) (hl : inp.length ≠ 16) :
    exec (.dec inp) s = .next (s.withResponse (some ⟨.errPayloadLength, []⟩)) := checkLength_fail s _ hl

theorem exec_enc_notReady (hl : inp.length = 16) (hr : s.ready = false) :
    exec (.enc inp) s = .next (s.withResponse (some ⟨.errNotReady, []⟩)) := checkBlock_notReady _ hl hr

theorem exec_dec_notReady (hl : inp.length = 16) (hr : s.ready = false) :
    exec (.dec inp) s = .next (s.withResponse (some ⟨.errNotReady, []⟩)) := checkBlock_notReady _ hl hr

end

theorem rounds_eq (ks : BitVec 2) : rounds ks = 10 + 2 * ks.toNat := by
  obtain ⟨-, hrounds, -⟩ := mode_parameters ks
  exact hrounds

/-- Settles O10: the checks, then the two chaining modes; the examples are evaluated. -/
theorem encEnciphersAndChains : Obligations.EncEnciphersAndChains :=
  ⟨fun _ s hl => exec_enc_payloadLength s hl, fun _ _ hl hr => exec_enc_notReady hl hr,
    fun b s hr h3 hc => rounds_eq s.ks ▸ execEnc_ecb b hr h3 hc,
    fun b s hr h3 hc => rounds_eq s.ks ▸ execEnc_cbc b hr h3 hc, by decide +kernel, by decide +kernel⟩

/-- Settles O11: the checks, then the two chaining modes; the examples are evaluated. -/
theorem decDeciphersAndChains : Obligations.DecDeciphersAndChains :=
  ⟨fun _ s hl => exec_dec_payloadLength s hl, fun _ _ hl hr => exec_dec_notReady hl hr,
    fun b s hr h3 hc => rounds_eq s.ks ▸ execDec_ecb b hr h3 hc,
    fun b s hr h3 hc => rounds_eq s.ks ▸ execDec_cbc b hr h3 hc, by decide +kernel, by decide +kernel⟩

/-- Settles O34: `DEC` runs `InvCipher` under the schedule under which `ENC` ran `Cipher`. -/
theorem ecbIsStatelessAndInvertible : Obligations.EcbIsStatelessAndInvertible := by
  intro b s u hr h3 hc hur hks huc hw
  have hdec := execDec_ecb (cipher b s.w.toList (rounds s.ks)) hur (hks ▸ h3) huc
  rw [hw, hks, invCipher_cipher] at hdec
  exact ⟨_, execEnc_ecb b hr h3 hc, hdec⟩

/-- Settles O33, by evaluation. -/
theorem knownAnswerFromTheDocument : Obligations.KnownAnswerFromTheDocument :=
  ⟨by decide +kernel, by decide +kernel⟩

/-! ## `ZEROIZE` -/

theorem exec_zeroize_ok (s : State) : exec (.zeroize []) s = .next (s.zeroized.withResponse (some ⟨.ok, []⟩)) := rfl

/-- Settles O12: the state `ZEROIZE` leaves is unconstructed, so the block commands fail there and `INIT` does not. -/
theorem zeroizeDestroysTheEngine : Obligations.ZeroizeDestroysTheEngine := by
  refine ⟨exec_zeroize_ok, fun _ s h => checkLength_fail s _ h, fun s t h => ?_⟩
  cases h.symm.trans (exec_zeroize_ok s)
  exact ⟨exec_status_ok _, fun b => ⟨exec_enc_notReady b.bytes_length rfl, exec_dec_notReady b.bytes_length rfl⟩,
    fun ch _ _ h3 hl => ⟨_, exec_init_ok ch h3 hl rfl, rfl⟩, exec_zeroize_ok _⟩

end Sys2Proof.Machine

/-! Runs of block commands on a CBC engine: where the chaining value stands, the two closed forms, and the claims of
44_cbc_chaining.md. -/

namespace Sys2Proof.Machine

open Sys2Proof

/-! ## The chaining value over a run -/

/-- A command other than `ENC` and `DEC` carries no ciphertext block. -/
theorem lastCiphertext_of_not_block {i : Instr} (hb : isBlockOperation i = false) (cv : Block) (r : Response) :
    lastCiphertext cv ⟨i, r⟩ = cv := by
  obtain ⟨st, out⟩ := r
  cases st with
  | ok =>
    cases i with
    | enc _ | dec _ => cases hb
    | _ => rfl
  | _ => rfl

/-- A block command that goes on at a constructed engine had the wrong length, or a block under a legal mode. -/
theorem block_next_cases {i : Instr} {s t : State} (hb : isBlockOperation i = true) (hr : s.ready = true)
    (h : exec i s = .next t) :
    t = s.withResponse (some ⟨.errPayloadLength, []⟩) ∨
      (s.ks ≠ 3#2 ∧ ∃ b : Block, i = .enc b.bytes ∨ i = .dec b.bytes) := by
  by_cases hl : i.payload.length = 16
  · have h3 : s.ks ≠ 3#2 := fun h3 => by cases h.symm.trans (exec_stops hb hl hr h3)
    obtain ⟨b, hbytes⟩ := exists_block_of_length i.payload hl
    refine .inr ⟨h3, b, ?_⟩
    cases i with
    | enc inp => exact .inl (congrArg _ hbytes)
    | dec inp => exact .inr (congrArg _ hbytes)
    | _ => cases hb
  · left
    cases i with
    | enc inp => cases h.symm.trans (exec_enc_payloadLength s hl); rfl
    | dec inp => cases h.symm.trans (exec_dec_payloadLength s hl); rfl
    | _ => cases hb

/-- R223 for one command: on a CBC engine it leaves in `CV` the ciphertext block it carried, if it carried one. -/
theorem exec_cbc_lastCiphertext {i : Instr} {s t : State} {r : Response} (hr : s.ready = true) (hc : s.ch = .cbc)
    (hz : ∀ p, i ≠ .zeroize p) (h : exec i s = .next t) (hresp : t.response = some r) :
    t.ready = true ∧ t.ch = .cbc ∧ t.cv = lastCiphertext s.cv ⟨i, r⟩ := by
  cases hb : isBlockOperation i with
  | true =>
    obtain rfl | ⟨h3, b, rfl | rfl⟩ := block_next_cases hb hr h
    · cases hresp
      exact ⟨hr, hc, rfl⟩
    · cases h.symm.trans (execEnc_cbc b hr h3 hc)
      cases hresp
      exact ⟨hr, hc, rfl⟩
    · cases h.symm.trans (execDec_cbc b hr h3 hc)
      cases hresp
      exact ⟨hr, hc, rfl⟩
  | false =>
    rw [lastCiphertext_of_not_block hb]
    obtain ⟨_, _, e⟩ | ⟨_, _, _, _, _, _, hr', _⟩ | ⟨_, rfl, _⟩ | ⟨_, rfl, _⟩ | ⟨hi, _⟩ |
      ⟨_, _, _, e⟩ := exec_cases i s
    · cases h.symm.trans e
      exact ⟨hr, hc, rfl⟩
    · cases hr.symm.trans hr'
    · cases hb
    · cases hb
    · exact absurd hi (hz [])
    · cases h.symm.trans e

/-- A run of a first command and the rest. -/
theorem runCommands_cons_eq_some {i : Instr} {is : List Instr} {s t : State} {xs : List Exchange}
    (h : runCommands (i :: is) s = some (xs, t)) :
    ∃ (u : State) (r : Response) (ys : List Exchange), exec i s = .next u ∧ u.response = some r ∧
      runCommands is u = some (ys, t) ∧ xs = ⟨i, r⟩ :: ys := by
  unfold runCommands at h
  split at h
  next u hu =>
    split at h
    next r hresp =>
      obtain ⟨⟨ys, _⟩, hys, e⟩ := Option.map_eq_some_iff.1 h
      cases e
      exact ⟨u, r, ys, hu, hresp, hys, rfl⟩
    next => cases h
  next => cases h
  next => cases h

/-- R223 along a run, command by command. -/
theorem runCommands_cbc_lastCiphertext {is : List Instr} {s t : State} {xs : List Exchange} (hr : s.ready = true)
    (hc : s.ch = .cbc) (hz : ∀ i ∈ is, ∀ p, i ≠ .zeroize p) (h : runCommands is s = some (xs, t)) :
    t.ready = true ∧ t.ch = .cbc ∧ t.cv = xs.foldl lastCiphertext s.cv := by
  induction is generalizing s xs with
  | nil =>
    cases h
    exact ⟨hr, hc, rfl⟩
  | cons i is ih =>
    obtain ⟨hzi, hzis⟩ := List.forall_mem_cons.1 hz
    obtain ⟨u, r, ys, hu, hresp, hys, rfl⟩ := runCommands_cons_eq_some h
    obtain ⟨hur, huc, hucv⟩ := exec_cbc_lastCiphertext hr hc hzi hu hresp
    rw [List.foldl_cons, ← hucv]
    exact ih hur huc hzis hys

/-- An `INIT` in CBC that answers `OK` leaves a fresh engine (43_block_cipher_engine.md rule R196). -/
theorem freshCbc_of_init {ks : BitVec 2} {key : List Byte} {s t : State} (h : exec (.init .cbc ks key) s = .next t)
    (hresp : t.response = some ⟨.ok, []⟩) : t.FreshCbc := by
  obtain ⟨_, e⟩ | ⟨_, _, e⟩ | ⟨_, _, _, e⟩ | ⟨h3, _, _, e⟩ := execInit_cases .cbc ks key s <;> cases h.symm.trans e
  · cases hresp
  · cases hresp
  · cases hresp
  · exact ⟨rfl, h3, rfl, rfl⟩

/-- Settles O35: each command of the run moves `CV` to the ciphertext block it carried. -/
theorem chainingValueIsTheLastCiphertext : Obligations.ChainingValueIsTheLastCiphertext :=
  ⟨fun _ _ _ _ hr hc hz h => runCommands_cbc_lastCiphertext hr hc hz h, fun _ _ _ _ _ h => freshCbc_of_init h⟩

/-! ## Chaining as a function of blocks -/

/-- The ciphertext blocks that `CV = cv` makes of the cipher's outputs `ys`: their running `XOR` (R221). -/
def chain (cv : Block) (ys : List Block) : List Block := (ys.scanl Block.xor cv).tail

/-- The inverse cipher's inputs that `CV = cv` makes of the ciphertext blocks `cs`: each `XOR` the one before (R222). -/
def unchain (cv : Block) (cs : List Block) : List Block := List.zipWith Block.xor cs (cv :: cs)

theorem block_xor_right_cancel {a b c : Block} (h : a.xor c = b.xor c) : a = b := by
  rw [← Block.xor_xor_cancel a c, h, Block.xor_xor_cancel]

theorem cons_chain (cv : Block) (ys : List Block) : cv :: chain cv ys = ys.scanl Block.xor cv := by
  cases ys <;> simp [chain]

theorem chain_cons (cv y : Block) (ys : List Block) : chain cv (y :: ys) = cv.xor y :: chain (cv.xor y) ys := by
  rw [cons_chain, chain, List.scanl_cons, List.tail_cons]

@[simp] theorem chain_length (cv : Block) (ys : List Block) : (chain cv ys).length = ys.length := by simp [chain]

theorem chain_take (cv : Block) (ys : List Block) (k : Nat) : (chain cv ys).take k = chain cv (ys.take k) := by
  rw [← List.cons_inj_right cv, cons_chain, ← List.take_succ_cons, cons_chain, List.take_scanl]

/-- The running `XOR` from a zero chaining value (R224, second form). -/
theorem chain_getD_eq_xorAll {ys : List Block} {i : Nat} (hi : i < ys.length) :
    (chain Block.zero ys).getD i Block.zero = xorAll (ys.take (i + 1)) := by
  rw [← List.getD_cons_succ (x := Block.zero), cons_chain, List.getD_eq_getElem _ _ (by simpa using hi),
    List.getElem_scanl, xorAll]

/-- A sum of blocks does not depend on their order. -/
theorem xorAll_perm {as bs : List Block} (h : as.Perm bs) : xorAll as = xorAll bs :=
  h.foldl_eq' (fun a _ b _ c => by rw [Block.xor_assoc, Block.xor_comm a b, Block.xor_assoc]) Block.zero

theorem unchain_cons (cv c : Block) (cs : List Block) : unchain cv (c :: cs) = c.xor cv :: unchain c cs := rfl

/-- `XOR` with the block before undoes the running `XOR`. -/
theorem unchain_chain (cv : Block) (ys : List Block) : unchain cv (chain cv ys) = ys := by
  induction ys generalizing cv with
  | nil => rfl
  | cons y ys ih => rw [chain_cons, unchain_cons, ih, Block.xor_comm cv y, Block.xor_xor_cancel]

@[simp] theorem unchain_length (cv : Block) (cs : List Block) : (unchain cv cs).length = cs.length := by simp [unchain]

/-- The block before block `i`, with a zero chaining value before block 0. -/
def previousBlock (cs : List Block) (i : Nat) : Block := if i = 0 then Block.zero else cs.getD (i - 1) Block.zero

@[simp] theorem previousBlock_zero (cs : List Block) : previousBlock cs 0 = Block.zero := rfl

@[simp] theorem previousBlock_succ (cs : List Block) (i : Nat) : previousBlock cs (i + 1) = cs.getD i Block.zero := rfl

theorem unchain_getD {cs : List Block} {i : Nat} (hi : i < cs.length) :
    (unchain Block.zero cs).getD i Block.zero = (cs.getD i Block.zero).xor (previousBlock cs i) := by
  cases i with
  | zero => simp [unchain, hi]
  | succ i =>
    have hprev : i < cs.length := by omega
    simp [unchain, hi, hprev]

theorem getD_map_of_lt {α β : Type} (f : α → β) {l : List α} {i : Nat} (hi : i < l.length) (d : α) (e : β) :
    (l.map f).getD i e = f (l.getD i d) := by simp [hi]

theorem previousBlock_congr {cs ds : List Block} {k : Nat} (h : cs.take k = ds.take k) :
    previousBlock cs k = previousBlock ds k := by
  cases k with
  | zero => rfl
  | succ k =>
    have hk := congrArg (fun l => l.getD k Block.zero) h
    simpa using hk

/-- Lists of one length that agree below `k` have the same first `k` entries. -/
theorem take_eq_take_of_getD {α : Type} {l m : List α} {k : Nat} {d : α} (hlen : l.length = m.length)
    (h : ∀ j < k, l.getD j d = m.getD j d) : l.take k = m.take k := by
  refine List.ext_getElem (by simp [hlen]) fun j hj hj' => ?_
  obtain ⟨hk, hl⟩ := lt_min_iff.1 (List.length_take ▸ hj)
  rw [List.getElem_take, List.getElem_take, ← List.getD_eq_getElem l d hl, ← List.getD_eq_getElem m d (hlen ▸ hl)]
  exact h j hk

/-! ## Blocks through a CBC engine -/

/-- A constructed engine in CBC, whatever its chaining value. -/
def State.CbcReady (s : State) : Prop := s.ready = true ∧ s.ks ≠ 3#2 ∧ s.ch = .cbc

theorem State.FreshCbc.cbcReady {s : State} (hs : s.FreshCbc) : s.CbcReady := by
  obtain ⟨hr, h3, hc, _⟩ := hs
  exact ⟨hr, h3, hc⟩

theorem State.FreshCbc.cv_eq_zero {s : State} (hs : s.FreshCbc) : s.cv = Block.zero := by
  obtain ⟨_, _, _, hcv⟩ := hs
  exact hcv

/-- What the commands of a run answered. -/
def runOutputs (is : List Instr) (s : State) : Option (List (List Byte)) := (runCommands is s).map fun q => outputs q.1

theorem exists_run_of_runOutputs {is : List Instr} {s : State} {outs : List (List Byte)}
    (h : runOutputs is s = some outs) : ∃ xs t, runCommands is s = some (xs, t) ∧ outputs xs = outs := by
  obtain ⟨⟨xs, t⟩, hrun, hout⟩ := Option.map_eq_some_iff.1 h
  exact ⟨xs, t, hrun, hout⟩

theorem runOutputs_cons {i : Instr} {s u : State} {r : Response} (h : exec i s = .next (u.withResponse (some r)))
    (is : List Instr) : runOutputs (i :: is) s = (runOutputs is (u.withResponse (some r))).map (r.out :: ·) := by
  simp only [runOutputs, runCommands, h, State.withResponse_response, Option.map_map]
  rfl

theorem exec_enc_cbc (p : Block) {s : State} (hs : s.CbcReady) :
    exec (.enc p.bytes) s =
      .next ((s.withCv (s.cv.xor (s.encipher p))).withResponse (some ⟨.ok, (s.cv.xor (s.encipher p)).bytes⟩)) := by
  obtain ⟨hr, h3, hc⟩ := hs
  rw [Block.xor_comm]
  exact execEnc_cbc p hr h3 hc

theorem exec_dec_cbc (c : Block) {s : State} (hs : s.CbcReady) :
    exec (.dec c.bytes) s = .next ((s.withCv c).withResponse (some ⟨.ok, (s.decipher (c.xor s.cv)).bytes⟩)) := by
  obtain ⟨hr, h3, hc⟩ := hs
  exact execDec_cbc c hr h3 hc

/-- A run of `ENC` chains the cipher's outputs. -/
theorem runOutputs_enc (ps : List Block) {s : State} (hs : s.CbcReady) :
    runOutputs (ps.map fun p => .enc p.bytes) s = some ((chain s.cv (ps.map s.encipher)).map Block.bytes) := by
  induction ps generalizing s with
  | nil => rfl
  | cons p ps ih =>
    have hnext : ((s.withCv (s.cv.xor (s.encipher p))).withResponse
      (some ⟨.ok, (s.cv.xor (s.encipher p)).bytes⟩)).CbcReady := hs
    rw [List.map_cons, runOutputs_cons (exec_enc_cbc p hs), ih hnext, List.map_cons, chain_cons]
    rfl

/-- A run of `DEC` unchains the ciphertext blocks. -/
theorem runOutputs_dec (cs : List Block) {s : State} (hs : s.CbcReady) :
    runOutputs (cs.map fun c => .dec c.bytes) s = some ((unchain s.cv cs).map fun x => (s.decipher x).bytes) := by
  induction cs generalizing s with
  | nil => rfl
  | cons c cs ih =>
    have hnext : ((s.withCv c).withResponse (some ⟨.ok, (s.decipher (c.xor s.cv)).bytes⟩)).CbcReady := hs
    rw [List.map_cons, runOutputs_cons (exec_dec_cbc c hs), ih hnext, unchain_cons]
    rfl

/-- The ciphertext blocks of a fresh CBC engine (R224). -/
def State.freshCiphertexts (s : State) (ps : List Block) : List Block := chain Block.zero (ps.map s.encipher)

theorem runOutputs_enc_fresh (ps : List Block) {s : State} (hs : s.FreshCbc) :
    runOutputs (ps.map fun p => .enc p.bytes) s = some ((s.freshCiphertexts ps).map Block.bytes) := by
  rw [runOutputs_enc ps hs.cbcReady, hs.cv_eq_zero, State.freshCiphertexts]

theorem ciphertexts_eq_map_runOutputs (ps : List Block) (s : State) :
    ciphertexts ps s = (runOutputs (ps.map fun p => .enc p.bytes) s).map (List.map fun o => payloadBlock o 0) := by
  rw [ciphertexts, runOutputs, Option.map_map]
  rfl

theorem ciphertexts_eq (ps : List Block) {s : State} (hs : s.FreshCbc) :
    ciphertexts ps s = some (s.freshCiphertexts ps) := by
  rw [ciphertexts_eq_map_runOutputs, runOutputs_enc_fresh ps hs, Option.map_some, List.map_map]
  exact congrArg some (List.map_id _)

section

variable (s : State) (ps : List Block)

@[simp] theorem freshCiphertexts_length : (s.freshCiphertexts ps).length = ps.length := by simp [State.freshCiphertexts]

variable {ps} {i : Nat}

theorem freshCiphertexts_getD (hi : i < ps.length) :
    (s.freshCiphertexts ps).getD i Block.zero =
      (s.encipher (ps.getD i Block.zero)).xor (previousBlock (s.freshCiphertexts ps) i) := by
  have h := unchain_getD (cs := s.freshCiphertexts ps) (by simpa using hi)
  rw [State.freshCiphertexts, unchain_chain, getD_map_of_lt _ hi Block.zero, ← State.freshCiphertexts] at h
  rw [h, Block.xor_xor_cancel]

theorem freshCiphertexts_getD_eq_xorAll (hi : i < ps.length) :
    (s.freshCiphertexts ps).getD i Block.zero = xorAll ((ps.take (i + 1)).map s.encipher) := by
  rw [State.freshCiphertexts, chain_getD_eq_xorAll (by simpa using hi), List.map_take]

end

/-- Settles O36: the blocks are the running `XOR` of the enciphered blocks. -/
theorem cbcEncryptionInClosedForm : Obligations.CbcEncryptionInClosedForm := fun ps s hs =>
  ⟨s.freshCiphertexts ps, ciphertexts_eq ps hs, freshCiphertexts_length s ps,
    fun _ hi => ⟨freshCiphertexts_getD s hi, freshCiphertexts_getD_eq_xorAll s hi⟩⟩

/-- Settles O37: the inverse cipher's inputs are the ciphertext blocks, each `XOR` the one before. -/
theorem cbcDecryptionInClosedForm : Obligations.CbcDecryptionInClosedForm := by
  intro cs s hs
  obtain ⟨xs, t, hrun, hout⟩ := exists_run_of_runOutputs (runOutputs_dec cs hs.cbcReady)
  rw [hs.cv_eq_zero] at hout
  have hlen : xs.length = cs.length := by simpa [outputs] using congrArg List.length hout
  refine ⟨xs, t, hrun, hlen, fun i hi => ?_⟩
  rw [hout, getD_map_of_lt _ (by simpa using hi) Block.zero, unchain_getD hi]
  rfl

/-! ## The round trip -/

/-- R192 under the schedule of one engine. -/
theorem decipher_encipher (s : State) (p : Block) : s.decipher (s.encipher p) = p := invCipher_cipher p _ _

theorem encipher_injective (s : State) : Function.Injective s.encipher :=
  Function.LeftInverse.injective (decipher_encipher s)

/-- What one engine enciphers, an engine of the same schedule deciphers. -/
theorem runOutputs_dec_freshCiphertexts (ps : List Block) {s u : State} (hu : u.FreshCbc) (hw : u.w = s.w)
    (hks : u.ks = s.ks) :
    runOutputs ((s.freshCiphertexts ps).map fun c => .dec c.bytes) u = some (ps.map Block.bytes) := by
  have hback : ∀ p, u.decipher (s.encipher p) = p := fun p => by
    rw [State.decipher, hw, hks]
    exact decipher_encipher s p
  rw [runOutputs_dec _ hu.cbcReady, hu.cv_eq_zero, State.freshCiphertexts, unchain_chain, List.map_map]
  exact congrArg some (List.map_congr_left fun p _ => congrArg Block.bytes (hback p))

/-- The engine a successful `INIT` in CBC leaves. -/
def cbcEngine (ks : BitVec 2) (key : List Byte) (s : State) : State :=
  (s.constructed .cbc ks key (keyExpansion key)).withResponse (some ⟨.ok, []⟩)

/-- A run that begins with the constructing `INIT`. -/
theorem runOutputs_init {ks : BitVec 2} {key : List Byte} {s : State} (h3 : ks ≠ 3#2)
    (hl : key.length = 16 + 8 * ks.toNat) (hr : s.ready = false) (is : List Instr) :
    runOutputs (.init .cbc ks key :: is) s = (runOutputs is (cbcEngine ks key s)).map ([] :: ·) :=
  runOutputs_cons (exec_init_ok .cbc h3 hl hr) is

/-- Settles O38: the two engines hold the same schedule, so each block is deciphered as it was enciphered, and the
chaining is undone. -/
theorem cbcRoundTrip : Obligations.CbcRoundTrip := by
  intro ks key ps s u h3 hl hs hu
  have hfresh : ∀ t, (cbcEngine ks key t).FreshCbc := fun _ => ⟨rfl, h3, rfl, rfl⟩
  have henc := runOutputs_init h3 hl hs (ps.map fun p => .enc p.bytes)
  rw [runOutputs_enc_fresh ps (hfresh s)] at henc
  obtain ⟨xs, s', hrun, hout⟩ := exists_run_of_runOutputs henc
  have hcommands : (outputs xs).tail.map Instr.dec =
      ((cbcEngine ks key s).freshCiphertexts ps).map fun c => .dec c.bytes := by
    rw [hout, List.tail_cons, List.map_map]
    rfl
  have hdec := runOutputs_init h3 hl hu ((outputs xs).tail.map .dec)
  rw [hcommands, runOutputs_dec_freshCiphertexts ps (s := cbcEngine ks key s) (hfresh u) rfl rfl, ← hcommands]
    at hdec
  obtain ⟨ys, u', hrun', hout'⟩ := exists_run_of_runOutputs hdec
  exact ⟨xs, ys, s', u', hrun, hrun', congrArg List.tail hout'⟩

/-! ## The consequences of the closed form -/

section

variable (s : State) {ps qs : List Block} {i k : Nat}

/-- R228, item 1. -/
theorem adjacent_xor_eq_encipher (h1 : 1 ≤ i) (hi : i < ps.length) :
    ((s.freshCiphertexts ps).getD i Block.zero).xor ((s.freshCiphertexts ps).getD (i - 1) Block.zero) =
      s.encipher (ps.getD i Block.zero) := by
  obtain ⟨j, rfl⟩ := Nat.exists_eq_add_of_le' h1
  rw [freshCiphertexts_getD s hi, previousBlock_succ, Nat.add_sub_cancel, Block.xor_xor_cancel]

/-- R228, item 2: two equal plaintext blocks cancel. -/
theorem equal_neighbour_gives_zero (h1 : 1 ≤ i) (hi : i < ps.length)
    (heq : ps.getD i Block.zero = ps.getD (i - 1) Block.zero)
    (hz : i = 1 ∨ (s.freshCiphertexts ps).getD (i - 2) Block.zero = Block.zero) :
    (s.freshCiphertexts ps).getD i Block.zero = Block.zero := by
  obtain ⟨j, rfl⟩ := Nat.exists_eq_add_of_le' h1
  have hprev : previousBlock (s.freshCiphertexts ps) j = Block.zero := by
    cases j with
    | zero => rfl
    | succ j => exact hz.resolve_left (by omega)
  rw [freshCiphertexts_getD s hi, previousBlock_succ, freshCiphertexts_getD s (Nat.lt_of_succ_lt hi), hprev, heq,
    Nat.add_sub_cancel, Block.xor_zero, Block.xor_self]

/-- R228, item 3. -/
theorem freshCiphertexts_getD_perm (hi : i < ps.length) (hi' : i < qs.length)
    (h : (ps.take (i + 1)).Perm (qs.take (i + 1))) :
    (s.freshCiphertexts ps).getD i Block.zero = (s.freshCiphertexts qs).getD i Block.zero := by
  rw [freshCiphertexts_getD_eq_xorAll s hi, freshCiphertexts_getD_eq_xorAll s hi', xorAll_perm (h.map _)]

/-- R228, item 4. -/
theorem freshCiphertexts_take_congr (h : ps.take k = qs.take k) :
    (s.freshCiphertexts ps).take k = (s.freshCiphertexts qs).take k := by
  simp only [State.freshCiphertexts, chain_take, ← List.map_take, h]

/-- Equal blocks before and different plaintext blocks give different ciphertext blocks. -/
theorem freshCiphertexts_getD_ne_of_plain_ne (hi : i < ps.length) (hi' : i < qs.length)
    (hprev : previousBlock (s.freshCiphertexts ps) i = previousBlock (s.freshCiphertexts qs) i)
    (hne : ps.getD i Block.zero ≠ qs.getD i Block.zero) :
    (s.freshCiphertexts ps).getD i Block.zero ≠ (s.freshCiphertexts qs).getD i Block.zero := by
  rw [freshCiphertexts_getD s hi, freshCiphertexts_getD s hi', hprev]
  exact fun h => hne (encipher_injective s (block_xor_right_cancel h))

/-- R228, item 4: one differing block makes every later block differ, since `XOR` with an equal block keeps a
difference. -/
theorem freshCiphertexts_getD_ne (hlen : ps.length = qs.length) (hk : k < ps.length)
    (hne : ps.getD k Block.zero ≠ qs.getD k Block.zero)
    (heq : ∀ j, j ≠ k → ps.getD j Block.zero = qs.getD j Block.zero) {j : Nat} (hkj : k ≤ j) (hj : j < ps.length) :
    (s.freshCiphertexts ps).getD j Block.zero ≠ (s.freshCiphertexts qs).getD j Block.zero := by
  induction j, hkj using Nat.le_induction with
  | base =>
    have htake : ps.take k = qs.take k := take_eq_take_of_getD hlen fun j hj => heq j hj.ne
    exact freshCiphertexts_getD_ne_of_plain_ne s hk (hlen ▸ hk)
      (previousBlock_congr (freshCiphertexts_take_congr s htake)) hne
  | succ j hkj ih =>
    rw [freshCiphertexts_getD s hj, freshCiphertexts_getD s (hlen ▸ hj), heq (j + 1) (by omega), previousBlock_succ,
      previousBlock_succ, Block.xor_comm, Block.xor_comm _ ((s.freshCiphertexts qs).getD j Block.zero)]
    exact fun h => ih (by omega) (block_xor_right_cancel h)

/-- R228, item 5. -/
theorem freshCiphertexts_swap {a b c : Block} (hbc : b ≠ c) :
    (s.freshCiphertexts [a, b, c]).getD 0 Block.zero = (s.freshCiphertexts [a, c, b]).getD 0 Block.zero ∧
    (s.freshCiphertexts [a, b, c]).getD 1 Block.zero ≠ (s.freshCiphertexts [a, c, b]).getD 1 Block.zero ∧
    (s.freshCiphertexts [a, b, c]).getD 2 Block.zero = (s.freshCiphertexts [a, c, b]).getD 2 Block.zero := by
  have hfirst : (s.freshCiphertexts [a, b, c]).getD 0 Block.zero = (s.freshCiphertexts [a, c, b]).getD 0 Block.zero :=
    freshCiphertexts_getD_perm s (by simp) (by simp) (.refl [a])
  exact ⟨hfirst, freshCiphertexts_getD_ne_of_plain_ne s (by simp) (by simp) hfirst hbc,
    freshCiphertexts_getD_perm s (by simp) (by simp) ((List.Perm.swap c b []).cons a)⟩

end

/-- Settles O39: the five items of R228, read off the blocks of a fresh engine. -/
theorem cbcConsequences : Obligations.CbcConsequences := by
  intro s hs ps qs cs ds hcs hds
  obtain rfl := Option.some.inj (hcs.symm.trans (ciphertexts_eq ps hs))
  obtain rfl := Option.some.inj (hds.symm.trans (ciphertexts_eq qs hs))
  refine ⟨fun i h1 hi => adjacent_xor_eq_encipher s h1 hi, fun i h1 hi => equal_neighbour_gives_zero s h1 hi,
    fun i hi hi' => freshCiphertexts_getD_perm s hi hi', fun k => freshCiphertexts_take_congr s,
    fun k hlen hk hne heq j => freshCiphertexts_getD_ne s hlen hk hne heq, ?_⟩
  rintro a b c rfl rfl hbc
  exact freshCiphertexts_swap s hbc

end Sys2Proof.Machine

/-! The host's procedures: what a command issued by the host gives it, runs of commands that all complete, the two
stream procedures over chunks of 16 bytes, and the claims of 45_host_stream_protocol.md. -/

namespace Sys2Proof.Machine

open Sys2Proof

/-! ## Padding -/

theorem padChunk_length {chunk : List Byte} (h : chunk.length ≤ 16) : (padChunk chunk).length = 16 := by
  simp [padChunk, h]

/-- Past the chunk stands the padding byte (R241). -/
theorem payloadByte_padChunk {chunk : List Byte} {i : Nat} (hi : chunk.length ≤ i) (h16 : i < 16) :
    payloadByte (padChunk chunk) i = BitVec.ofNat 8 (16 - chunk.length) := by
  have hpad : i - chunk.length < 16 - chunk.length := by omega
  rw [payloadByte, padChunk, List.getD_append_right _ _ _ _ hi, List.getD_replicate _ hpad]

/-- A padding byte is a number from 1 to 16 and so fits. -/
theorem paddingByte_toNat (chunk : List Byte) : (BitVec.ofNat 8 (16 - chunk.length)).toNat = 16 - chunk.length := by
  rw [BitVec.toNat_ofNat]
  omega

theorem unpad_of_padding {p : List Byte} (h1 : 1 ≤ (payloadByte p 15).toNat) (h16 : (payloadByte p 15).toNat ≤ 16) :
    unpad p = p.take (16 - (payloadByte p 15).toNat) := if_pos ⟨h1, h16⟩

theorem unpad_of_no_padding {p : List Byte} (h : (payloadByte p 15).toNat = 0 ∨ 16 < (payloadByte p 15).toNat) :
    unpad p = p := if_neg (by omega)

/-- Removing the padding gives the chunk back, the empty chunk too. -/
theorem unpad_padChunk {chunk : List Byte} (h : chunk.length < 16) : unpad (padChunk chunk) = chunk := by
  have hlast : (payloadByte (padChunk chunk) 15).toNat = 16 - chunk.length := by
    rw [payloadByte_padChunk (by omega) (by omega), paddingByte_toNat]
  rw [unpad_of_padding (by omega) (by omega), hlast, Nat.sub_sub_self h.le]
  exact List.take_left

/-- Settles O55: the bytes of a padded chunk, and the two branches of `unpad` by the number of the last byte. -/
theorem paddingIsAddedAndRemovedByTheLastByte : Obligations.PaddingIsAddedAndRemovedByTheLastByte := by
  refine ⟨fun chunk h => ⟨padChunk_length h.le, List.take_left, fun i hi h16 => ?_⟩, rfl,
    fun p hp => ⟨fun n h1 h15 hn => ?_, fun hn => ?_, fun hn => ?_, fun hn => ?_⟩⟩
  · exact (congrArg BitVec.toNat (payloadByte_padChunk hi h16)).trans (paddingByte_toNat chunk)
  · subst hn
    exact unpad_of_padding h1 (by unfold payloadByte; omega)
  · have hlast : (payloadByte p 15).toNat = 16 := congrArg BitVec.toNat hn
    rw [unpad_of_padding (by omega) (by omega), hlast]
    rfl
  · exact unpad_of_no_padding (.inl (congrArg BitVec.toNat hn))
  · exact unpad_of_no_padding (.inr hn)

/-! ## Issuing a command -/

/-- Issuing a command runs it: it is placed in front, and the step takes it (R80). -/
theorem issue_eq_exec (i : Instr) (s : State) : issue i s = exec i s := by
  rw [issue, step_command (State.withPending_pending _ _) (decode_commandByte i), State.withPending_withPending,
    State.withPending_self]

theorem hostCommand_ok {i : Instr} {s t : State} {out : List Byte}
    (h : exec i s = .next (t.withResponse (some ⟨.ok, out⟩))) :
    hostCommand i s = .ok out (t.withResponse (some ⟨.ok, out⟩)) := by
  simp only [hostCommand, issue_eq_exec, h, State.withResponse_response]

/-- A host's command that answers `OK` was executed and answered so. -/
theorem exec_of_hostCommand_ok {i : Instr} {s t : State} {out : List Byte} (h : hostCommand i s = .ok out t) :
    exec i s = .next t ∧ t.response = some ⟨.ok, out⟩ := by
  rw [hostCommand, issue_eq_exec] at h
  split at h
  next u hu =>
    split at h <;> cases h
    next hresp => exact ⟨hu, hresp⟩
  next => cases h
  next => cases h

/-! ## Constructing an engine, and generated keys -/

/-- A mode of the document is legal (R83). -/
theorem KeySize.field_ne_three (size : KeySize) : size.field ≠ 3#2 := by cases size <;> decide

/-- `new(mode, key)` with a key of the mode's size constructs an engine (R251). -/
theorem issue_new {m : CipherMode} {key : List Byte} {s : State} (hl : key.length = keySize m.size.field)
    (hr : s.ready = false) :
    issue (m.new key) s =
      .next ((s.constructed m.ch m.size.field key (keyExpansion key)).withResponse (some ⟨.ok, []⟩)) := by
  obtain ⟨hsize, -⟩ := mode_parameters m.size.field
  rw [issue_eq_exec]
  exact exec_init_ok m.ch (m.size.field_ne_three) (hl.trans hsize) hr

theorem generateKey_short {size : KeySize} {entropy : List Byte} (h : entropy.length < keySize size.field) :
    generateKey size entropy = .error .entropy := if_pos h

/-- A generated key has the mode's size (R250). -/
theorem length_of_generateKey {size : KeySize} {entropy key : List Byte} (h : generateKey size entropy = .ok key) :
    key.length = keySize size.field := by
  unfold generateKey at h
  split at h
  next => cases h
  next hlen =>
    cases h
    exact List.length_take_of_le (Nat.le_of_not_lt hlen)

/-- Settles O59: a generated key has the length that `INIT` asks for. -/
theorem generatedKeysConstructAnEngine : Obligations.GeneratedKeysConstructAnEngine :=
  ⟨fun _ _ _ _ hr h => ⟨length_of_generateKey h, _, issue_new (length_of_generateKey h) hr, rfl, rfl, rfl, rfl⟩,
    fun _ _ h => generateKey_short h⟩

/-! ## One block command -/

/-- A constructed engine in a legal mode. -/
def State.BlockReady (s : State) : Prop := s.ready = true ∧ s.ks ≠ 3#2

/-- The ciphertext block an engine answers to `ENC` (R197). -/
def State.encReply (s : State) (p : Block) : Block :=
  match s.ch with
  | .ecb => s.encipher p
  | .cbc => (s.encipher p).xor s.cv

/-- The plaintext block an engine answers to `DEC` (R198). -/
def State.decReply (s : State) (c : Block) : Block :=
  match s.ch with
  | .ecb => s.decipher c
  | .cbc => s.decipher (c.xor s.cv)

/-- The engine after the ciphertext block `c` has gone through it, out of `ENC` or into `DEC` (R221, R222). -/
def State.afterBlock (s : State) (c : Block) : State :=
  match s.ch with
  | .ecb => s
  | .cbc => s.withCv c

theorem State.BlockReady.afterBlock {s : State} (hs : s.BlockReady) (c : Block) : (s.afterBlock c).BlockReady := by
  unfold State.afterBlock
  cases s.ch <;> exact hs

theorem State.SameEngine.afterBlock {s u : State} (h : s.SameEngine u) (c : Block) :
    (s.afterBlock c).SameEngine (u.afterBlock c) := by
  obtain ⟨hready, hks, hch, hkey, hw, hcv⟩ := h
  unfold State.afterBlock
  rw [← hch]
  cases hc : s.ch
  · exact ⟨hready, hks, hch, hkey, hw, hcv⟩
  · exact ⟨hready, hks, hch, hkey, hw, rfl⟩

theorem State.SameEngine.blockReady {s u : State} (h : s.SameEngine u) (hs : s.BlockReady) : u.BlockReady := by
  obtain ⟨hready, hks, _⟩ := h
  obtain ⟨hr, h3⟩ := hs
  exact ⟨hready ▸ hr, hks ▸ h3⟩

/-- What one engine enciphers, an engine in the same state deciphers. -/
theorem State.SameEngine.decReply_encReply {s u : State} (h : s.SameEngine u) (p : Block) :
    u.decReply (s.encReply p) = p := by
  obtain ⟨_, hks, hch, _, hw, hcv⟩ := h
  have hback : u.decipher (s.encipher p) = p := by
    rw [State.decipher, ← hw, ← hks]
    exact decipher_encipher s p
  unfold State.decReply State.encReply
  rw [← hch, ← hcv]
  cases s.ch
  · exact hback
  · exact (congrArg u.decipher (Block.xor_xor_cancel _ _)).trans hback

theorem hostCommand_enc (p : Block) {s : State} (hs : s.BlockReady) :
    hostCommand (.enc p.bytes) s =
      .ok (s.encReply p).bytes ((s.afterBlock (s.encReply p)).withResponse (some ⟨.ok, (s.encReply p).bytes⟩)) := by
  obtain ⟨hr, h3⟩ := hs
  apply hostCommand_ok
  unfold State.afterBlock State.encReply
  cases hc : s.ch
  · exact execEnc_ecb p hr h3 hc
  · exact execEnc_cbc p hr h3 hc

theorem hostCommand_dec (c : Block) {s : State} (hs : s.BlockReady) :
    hostCommand (.dec c.bytes) s =
      .ok (s.decReply c).bytes ((s.afterBlock c).withResponse (some ⟨.ok, (s.decReply c).bytes⟩)) := by
  obtain ⟨hr, h3⟩ := hs
  apply hostCommand_ok
  unfold State.afterBlock State.decReply
  cases hc : s.ch
  · exact execDec_ecb c hr h3 hc
  · exact execDec_cbc c hr h3 hc

/-- A block command with sixteen bytes completes and leaves the engine ready for the next. -/
theorem hostCommand_block {i : Instr} {s : State} (hb : isBlockOperation i = true) (hl : i.payload.length = 16)
    (hs : s.BlockReady) : ∃ out t, hostCommand i s = .ok out t ∧ out.length = 16 ∧ t.BlockReady := by
  obtain ⟨b, hbytes⟩ := exists_block_of_length i.payload hl
  cases i with
  | enc inp =>
    obtain rfl : inp = b.bytes := hbytes
    exact ⟨_, _, hostCommand_enc b hs, rfl, hs.afterBlock _⟩
  | dec inp =>
    obtain rfl : inp = b.bytes := hbytes
    exact ⟨_, _, hostCommand_dec b hs, rfl, hs.afterBlock _⟩
  | _ => cases hb

theorem hostCommand_enc_notReady {inp : List Byte} {s : State} (hl : inp.length = 16) (hr : s.ready = false) :
    hostCommand (.enc inp) s =
      .failed (.commandFailed .errNotReady) (s.withResponse (some ⟨.errNotReady, []⟩)) := by
  simp only [hostCommand, issue_eq_exec, exec_enc_notReady hl hr, State.withResponse_response]

/-! ## Runs of the host's commands that all complete -/

/-- The host issues the commands in order, each is answered `OK`, with these output payloads, and this is the engine
afterwards. -/
inductive Completes : List Instr → State → List (List Byte) → State → Prop
  | nil (s : State) : Completes [] s [] s
  | cons {i : Instr} {is : List Instr} {s u t : State} {out : List Byte} {outs : List (List Byte)}
      (head : hostCommand i s = .ok out u) (tail : Completes is u outs t) : Completes (i :: is) s (out :: outs) t

theorem Completes.runCommands {is : List Instr} {s t : State} {outs : List (List Byte)}
    (h : Completes is s outs t) : ∃ xs, runCommands is s = some (xs, t) ∧ outputs xs = outs := by
  induction h with
  | nil s => exact ⟨[], rfl, rfl⟩
  | @cons i is s u t out outs head _ ih =>
    obtain ⟨xs, hrun, hout⟩ := ih
    obtain ⟨hexec, hresp⟩ := exec_of_hostCommand_ok head
    refine ⟨⟨i, ⟨.ok, out⟩⟩ :: xs, ?_, congrArg (out :: ·) hout⟩
    simp only [Machine.runCommands, hexec, hresp, hrun, Option.map_some]

theorem Completes.length_eq {is : List Instr} {s t : State} {outs : List (List Byte)} (h : Completes is s outs t) :
    outs.length = is.length := by
  induction h with
  | nil s => rfl
  | cons _ _ ih => exact congrArg (· + 1) ih

theorem Completes.of_singleton {i : Instr} {s t : State} {outs : List (List Byte)} (h : Completes [i] s outs t) :
    ∃ out, outs = [out] ∧ hostCommand i s = .ok out t := by
  cases h with
  | cons head tail =>
    cases tail
    exact ⟨_, rfl, head⟩

/-- A run cut in two. -/
theorem Completes.of_append {is js : List Instr} {s t : State} {outs : List (List Byte)}
    (h : Completes (is ++ js) s outs t) :
    ∃ outs₁ u outs₂, outs = outs₁ ++ outs₂ ∧ Completes is s outs₁ u ∧ Completes js u outs₂ t := by
  induction is generalizing s outs with
  | nil => exact ⟨[], s, outs, rfl, .nil s, h⟩
  | cons i is ih =>
    obtain - | ⟨head, tail⟩ := h
    obtain ⟨outs₁, u, outs₂, rfl, h₁, h₂⟩ := ih tail
    exact ⟨_ :: outs₁, u, outs₂, rfl, .cons head h₁, h₂⟩

/-- A run and its last command. -/
theorem Completes.of_concat {is : List Instr} {i : Instr} {s t : State} {outs : List (List Byte)} {out : List Byte}
    (h : Completes (is ++ [i]) s (outs ++ [out]) t) : ∃ u, Completes is s outs u ∧ hostCommand i u = .ok out t := by
  obtain ⟨outs₁, u, outs₂, heq, h₁, h₂⟩ := h.of_append
  obtain ⟨out', rfl, hlast⟩ := h₂.of_singleton
  obtain ⟨rfl, hout⟩ := List.append_inj' heq rfl
  cases hout
  exact ⟨u, h₁, hlast⟩

/-- Block commands of sixteen bytes each all complete on a constructed engine. -/
theorem completes_blockOperations {is : List Instr} {s : State} (hs : s.BlockReady)
    (his : ∀ i ∈ is, isBlockOperation i = true ∧ i.payload.length = 16) :
    ∃ outs t, Completes is s outs t ∧ ∀ out ∈ outs, out.length = 16 := by
  induction is generalizing s with
  | nil => exact ⟨[], s, .nil s, by simp⟩
  | cons i is ih =>
    obtain ⟨⟨hb, hl⟩, hrest⟩ := List.forall_mem_cons.1 his
    obtain ⟨out, u, head, hout, hu⟩ := hostCommand_block hb hl hs
    obtain ⟨outs, t, tail, houts⟩ := ih hu hrest
    exact ⟨out :: outs, t, .cons head tail, List.forall_mem_cons.2 ⟨hout, houts⟩⟩

/-- What a run of `ENC` answers, a run of `DEC` on an engine in the same state turns back, block by block. -/
theorem completes_enc_dec {ps : List (List Byte)} {s u : State} (hs : s.BlockReady) (h : s.SameEngine u)
    (hps : ∀ p ∈ ps, p.length = 16) :
    ∃ cs t v, Completes (ps.map .enc) s cs t ∧ Completes (cs.map .dec) u ps v ∧ ∀ c ∈ cs, c.length = 16 := by
  induction ps generalizing s u with
  | nil => exact ⟨[], s, u, .nil s, .nil u, by simp⟩
  | cons p ps ih =>
    obtain ⟨hp, hrest⟩ := List.forall_mem_cons.1 hps
    obtain ⟨b, rfl⟩ := exists_block_of_length p hp
    have hdec := hostCommand_dec (s.encReply b) (h.blockReady hs)
    rw [h.decReply_encReply b] at hdec
    obtain ⟨cs, t, v, henc, hback, hcs⟩ :=
      ih (s := (s.afterBlock (s.encReply b)).withResponse (some ⟨.ok, (s.encReply b).bytes⟩))
        (u := (u.afterBlock (s.encReply b)).withResponse (some ⟨.ok, b.bytes⟩))
        (hs.afterBlock _) (h.afterBlock _) hrest
    exact ⟨_ :: cs, t, v, .cons (hostCommand_enc b hs) henc, .cons hdec hback, List.forall_mem_cons.2 ⟨rfl, hcs⟩⟩

/-! ## A stream as chunks -/

/-- The first `n` chunks of sixteen bytes (R240). -/
def fullChunks (input : List Byte) (n : Nat) : List (List Byte) :=
  (List.range n).map fun k => (input.drop (16 * k)).take 16

@[simp] theorem fullChunks_length (input : List Byte) (n : Nat) : (fullChunks input n).length = n := by
  simp [fullChunks]

theorem fullChunks_succ (input : List Byte) (n : Nat) :
    fullChunks input (n + 1) = fullChunks input n ++ [(input.drop (16 * n)).take 16] := by
  simp [fullChunks, List.range_succ]

theorem fullChunks_flatten (input : List Byte) (n : Nat) : (fullChunks input n).flatten = input.take (16 * n) := by
  induction n with
  | zero => rfl
  | succ n ih => rw [fullChunks_succ, List.flatten_concat, ih, Nat.mul_succ, List.take_add]

theorem chunk_length {input : List Byte} {k : Nat} (h : 16 * (k + 1) ≤ input.length) :
    ((input.drop (16 * k)).take 16).length = 16 := by
  rw [List.length_take_of_le]
  simp only [List.length_drop]
  omega

theorem length_of_mem_fullChunks {input : List Byte} {n : Nat} (h : 16 * n ≤ input.length) {c : List Byte}
    (hc : c ∈ fullChunks input n) : c.length = 16 := by
  obtain ⟨k, hk, rfl⟩ := List.mem_map.1 hc
  exact chunk_length (by have := List.mem_range.1 hk; omega)

/-- What the last read gives: the bytes after the full chunks (R240). -/
def lastChunk (input : List Byte) : List Byte := input.drop (16 * (input.length / 16))

theorem lastChunk_length (input : List Byte) : (lastChunk input).length = input.length % 16 := by
  rw [lastChunk, List.length_drop]
  omega

theorem lastChunk_length_lt (input : List Byte) : (lastChunk input).length < 16 :=
  (lastChunk_length input).trans_lt (Nat.mod_lt _ (by decide))

/-- The full chunks and the last one are the stream. -/
theorem fullChunks_flatten_append_lastChunk (input : List Byte) :
    (fullChunks input (input.length / 16)).flatten ++ lastChunk input = input := by
  rw [fullChunks_flatten, lastChunk, List.take_append_drop]

/-- The padded plaintext by chunks (R242). -/
def paddedChunks (input : List Byte) : List (List Byte) :=
  fullChunks input (input.length / 16) ++ [padChunk (lastChunk input)]

@[simp] theorem paddedChunks_length (input : List Byte) : (paddedChunks input).length = input.length / 16 + 1 := by
  simp [paddedChunks]

theorem length_of_mem_paddedChunks {input : List Byte} : ∀ c ∈ paddedChunks input, c.length = 16 :=
  List.forall_mem_append.2 ⟨fun _ => length_of_mem_fullChunks (Nat.mul_div_le input.length 16),
    List.forall_mem_singleton.2 (padChunk_length (lastChunk_length_lt input).le)⟩

theorem flatten_length_of_chunks {cs : List (List Byte)} (h : ∀ c ∈ cs, c.length = 16) :
    cs.flatten.length = 16 * cs.length := by
  rw [List.length_flatten, List.map_eq_replicate_iff.2 h, List.sum_replicate, smul_eq_mul, Nat.mul_comm]

@[simp] theorem StreamResult.after_nil (r : StreamResult) : r.after [] = r := by simp [StreamResult.after]

@[simp] theorem StreamResult.stop_after (out : List Byte) (why : StreamEnd) (s : State) :
    (StreamResult.stop why s).after out = ⟨out, out.length, why, s⟩ := by simp [StreamResult.stop, StreamResult.after]

@[simp] theorem StreamResult.after_after (a b : List Byte) (r : StreamResult) :
    (r.after b).after a = r.after (a ++ b) := by
  simp [StreamResult.after, Nat.add_assoc]

/-! ## Encrypting -/

theorem encryptChunks_last {input out : List Byte} {s t : State}
    (h : hostCommand (.enc (padChunk input)) s = .ok out t) :
    encryptChunks 0 input s = (StreamResult.stop .done t).after out := by simp only [encryptChunks, h]

theorem encryptChunks_read {chunk input out : List Byte} {s t : State} (full : Nat) (hc : chunk.length = 16)
    (h : hostCommand (.enc chunk) s = .ok out t) :
    encryptChunks (full + 1) (chunk ++ input) s = (encryptChunks full input t).after out := by
  simp only [encryptChunks, List.take_left' hc, List.drop_left' hc, h]

/-- The loop of R243 emits what its `ENC`s answer. -/
theorem encryptChunks_of_completes {chunks outs : List (List Byte)} {last : List Byte} {s t : State}
    (hlen : ∀ c ∈ chunks, c.length = 16) (h : Completes (chunks.map .enc ++ [.enc (padChunk last)]) s outs t) :
    encryptChunks chunks.length (chunks.flatten ++ last) s = (StreamResult.stop .done t).after outs.flatten := by
  induction chunks generalizing s outs with
  | nil =>
    obtain ⟨out, rfl, hout⟩ := h.of_singleton
    rw [List.flatten_singleton]
    exact encryptChunks_last hout
  | cons c chunks ih =>
    obtain ⟨hc, hrest⟩ := List.forall_mem_cons.1 hlen
    obtain - | ⟨head, tail⟩ := h
    rw [List.flatten_cons, List.append_assoc, List.length_cons, encryptChunks_read _ hc head, ih hrest tail,
      StreamResult.after_after, List.flatten_cons]

/-- `ENCRYPT_STREAM` on one `ENC` per chunk of the padded plaintext. -/
theorem encryptStream_of_completes {input : List Byte} {outs : List (List Byte)} {s t : State}
    (h : Completes ((paddedChunks input).map .enc) s outs t) :
    encryptStream input s = (StreamResult.stop .done t).after outs.flatten := by
  rw [paddedChunks, List.map_append] at h
  have hloop := encryptChunks_of_completes (fun _ => length_of_mem_fullChunks (Nat.mul_div_le input.length 16)) h
  rwa [fullChunks_length, fullChunks_flatten_append_lastChunk] at hloop

theorem encryptStream_notReady (input : List Byte) {s : State} (hr : s.ready = false) :
    encryptStream input s =
      .stop (.commandFailed .errNotReady) (s.withResponse (some ⟨.errNotReady, []⟩)) := by
  unfold encryptStream
  cases hn : input.length / 16 with
  | zero => rw [encryptChunks, hostCommand_enc_notReady (padChunk_length (by omega)) hr]
  | succ n => rw [encryptChunks, hostCommand_enc_notReady (List.length_take_of_le (by omega)) hr]

/-- Settles O56: the `ENC`s all complete and the procedure emits what they answer, sixteen bytes each. -/
theorem encryptStreamIsOneEncPerPaddedBlock : Obligations.EncryptStreamIsOneEncPerPaddedBlock := by
  refine ⟨fun input s hr h3 => ?_, fun input s hr => ?_⟩
  · obtain ⟨outs, t, hcomp, houts⟩ := completes_blockOperations (is := (paddedChunks input).map .enc) ⟨hr, h3⟩
      (List.forall_mem_map.2 fun c hc => ⟨rfl, length_of_mem_paddedChunks c hc⟩)
    obtain ⟨xs, hrun, rfl⟩ := hcomp.runCommands
    have hlen : (outputs xs).flatten.length = 16 * (input.length / 16 + 1) := by
      rw [flatten_length_of_chunks houts, hcomp.length_eq, List.length_map, paddedChunks_length]
    rw [paddedChunks, fullChunks, List.map_append, List.map_map] at hrun
    rw [encryptStream_of_completes hcomp, StreamResult.stop_after]
    exact ⟨xs, t, hrun, rfl, rfl, rfl, hlen, hlen⟩
  · rw [encryptStream_notReady input hr]
    exact ⟨rfl, rfl⟩

/-! ## Decrypting -/

theorem decryptChunks_end {held input p : List Byte} {s t : State} (h : hostCommand (.dec held) s = .ok p t) :
    decryptChunks 0 (some held) input s = (StreamResult.stop .done t).after (unpad p) := by
  simp only [decryptChunks, h]

/-- Reading a full chunk sends the chunk held back, if there is one, and holds the new one (R246). -/
theorem decryptChunks_read {held : Option (List Byte)} {chunk input : List Byte} {outs : List (List Byte)}
    {s t : State} (reads : Nat) (hc : chunk.length = 16) (h : Completes (held.toList.map .dec) s outs t) :
    decryptChunks (reads + 1) held (chunk ++ input) s =
      (decryptChunks reads (some chunk) input t).after outs.flatten := by
  have hfull : ¬ chunk.length ≠ 16 := not_not.2 hc
  cases held with
  | none =>
    cases h
    simp only [decryptChunks, List.take_left' hc, List.drop_left' hc, if_neg hfull, List.flatten_nil,
      StreamResult.after_nil]
  | some c =>
    obtain ⟨out, rfl, hout⟩ := h.of_singleton
    simp only [decryptChunks, List.take_left' hc, List.drop_left' hc, if_neg hfull, hout, List.flatten_singleton]

/-- Reading the chunks `cs` and one more sends the chunk held back and `cs`, and holds the one more. -/
theorem decryptChunks_of_completes {held : Option (List Byte)} {cs outs : List (List Byte)} {d rest : List Byte}
    {s t : State} (reads : Nat) (hcs : ∀ c ∈ cs, c.length = 16) (hd : d.length = 16)
    (h : Completes (held.toList.map .dec ++ cs.map .dec) s outs t) :
    decryptChunks (reads + 1 + cs.length) held (cs.flatten ++ (d ++ rest)) s =
      (decryptChunks reads (some d) rest t).after outs.flatten := by
  induction cs generalizing held s outs with
  | nil =>
    rw [List.map_nil, List.append_nil] at h
    exact decryptChunks_read reads hd h
  | cons c cs ih =>
    obtain ⟨hc, hrest⟩ := List.forall_mem_cons.1 hcs
    obtain ⟨outs₁, u, outs₂, rfl, h₁, h₂⟩ := h.of_append
    rw [List.flatten_cons, List.append_assoc, List.length_cons, ← Nat.add_assoc, decryptChunks_read _ hc h₁,
      ih (held := some c) hrest h₂, StreamResult.after_after, List.flatten_append]

/-- A short read ends in the framing error, whatever is held back, and nothing more is sent (R248). -/
theorem decryptChunks_framing (reads : Nat) (held : Option (List Byte)) {input : List Byte} (s : State)
    (h : input.length < 16) :
    decryptChunks (reads + 1) held input s = .stop (.hostErr .framing) s := by
  have hshort : (input.take 16).length ≠ 16 := by simpa using h
  cases held with
  | none => exact if_pos hshort
  | some c => exact if_pos hshort

/-- `DECRYPT_STREAM` on a stream of full chunks emits what their `DEC`s answer, the last answer without its
padding. -/
theorem decryptStream_of_completes {cs outs : List (List Byte)} {p : List Byte} {s t : State}
    (hcs : ∀ c ∈ cs, c.length = 16) (h : Completes (cs.map .dec) s (outs ++ [p]) t) :
    decryptStream cs.flatten s = (StreamResult.stop .done t).after (outs.flatten ++ unpad p) := by
  obtain rfl | ⟨cs, d, rfl⟩ := cs.eq_nil_or_concat'
  · simpa using h.length_eq
  obtain ⟨hinit, hd⟩ := List.forall_mem_append.1 hcs
  have hd := List.forall_mem_singleton.1 hd
  rw [List.map_append] at h
  obtain ⟨u, hrun, hlast⟩ := h.of_concat
  have hreads : ((cs ++ [d]).flatten.length + 15) / 16 = 0 + 1 + cs.length := by
    rw [flatten_length_of_chunks hcs, List.length_append, List.length_singleton]
    omega
  have hloop := decryptChunks_of_completes (held := none) (rest := []) 0 hinit hd hrun
  rw [decryptStream, hreads, List.flatten_concat, ← List.append_nil d, hloop, decryptChunks_end hlast,
    StreamResult.after_after]

/-- `DECRYPT_STREAM` on a stream that ends in a short chunk: the last full chunk stays unsent. -/
theorem decryptStream_of_short {input : List Byte} {outs : List (List Byte)} {s t : State}
    (hshort : input.length % 16 ≠ 0) (h : Completes ((fullChunks input (input.length / 16 - 1)).map .dec) s outs t) :
    decryptStream input s = (StreamResult.stop (.hostErr .framing) t).after outs.flatten := by
  have hlast := lastChunk_length_lt input
  rw [decryptStream]
  cases hn : input.length / 16 with
  | zero =>
    have hreads : (input.length + 15) / 16 = 0 + 1 := by omega
    rw [hn] at h
    cases h
    rw [hreads, decryptChunks_framing 0 none s (by omega), List.flatten_nil, StreamResult.after_nil]
  | succ n =>
    have hreads : (input.length + 15) / 16 = 1 + 1 + n := by omega
    have hheld : ((input.drop (16 * n)).take 16).length = 16 := chunk_length (by omega)
    have hsplit := fullChunks_flatten_append_lastChunk input
    rw [hn] at h
    rw [hn, fullChunks_succ, List.flatten_concat, List.append_assoc] at hsplit
    have hloop := decryptChunks_of_completes (held := none) (rest := lastChunk input) 1
      (fun _ => length_of_mem_fullChunks (input := input) (n := n) (by omega)) hheld h
    rw [hreads, ← decryptChunks_framing 0 _ t hlast, ← hloop, hsplit, fullChunks_length]

/-- Settles O57: the `DEC`s of the full blocks but the last complete, then the short read ends the procedure. -/
theorem shortCiphertextIsAFramingError : Obligations.ShortCiphertextIsAFramingError := by
  refine ⟨fun input s hr h3 hshort => ?_, fun s => rfl⟩
  have hops : ∀ i ∈ (fullChunks input (input.length / 16 - 1)).map Instr.dec,
      isBlockOperation i = true ∧ i.payload.length = 16 :=
    List.forall_mem_map.2 fun c hc => ⟨rfl, length_of_mem_fullChunks (input := input) (by omega) hc⟩
  obtain ⟨outs, t, hcomp, -⟩ := completes_blockOperations ⟨hr, h3⟩ hops
  obtain ⟨xs, hrun, rfl⟩ := hcomp.runCommands
  rw [fullChunks, List.map_map] at hrun
  rw [decryptStream_of_short hshort hcomp, StreamResult.stop_after]
  exact ⟨xs, t, hrun, rfl, rfl, rfl⟩

/-! ## The round trip -/

/-- Between two constructed engines in the same state, `DECRYPT_STREAM` undoes `ENCRYPT_STREAM`: each block is turned
back, and the last one is the padded chunk. -/
theorem decryptStream_encryptStream (plain : List Byte) {s u : State} (hs : s.BlockReady) (h : s.SameEngine u) :
    (encryptStream plain s).ended = .done ∧ (decryptStream (encryptStream plain s).output u).output = plain ∧
      (decryptStream (encryptStream plain s).output u).ended = .done := by
  obtain ⟨cs, t, v, henc, hdec, hcs⟩ := completes_enc_dec hs h (length_of_mem_paddedChunks (input := plain))
  have hback : decryptStream cs.flatten u = (StreamResult.stop .done v).after plain := by
    rw [decryptStream_of_completes hcs hdec, unpad_padChunk (lastChunk_length_lt plain),
      fullChunks_flatten_append_lastChunk]
  rw [encryptStream_of_completes henc, StreamResult.stop_after, hback, StreamResult.stop_after]
  exact ⟨rfl, rfl, rfl⟩

/-- Settles O58: two engines constructed by the same `INIT` are in the same state. -/
theorem streamRoundTrip : Obligations.StreamRoundTrip := by
  intro m key plain s0 u0 s u hl hs0 hu0 hs hu
  cases hs.symm.trans (issue_new hl hs0)
  cases hu.symm.trans (issue_new hl hu0)
  exact decryptStream_encryptStream plain ⟨rfl, m.size.field_ne_three⟩ ⟨rfl, rfl, rfl, rfl, rfl, rfl⟩

end Sys2Proof.Machine

/-! Errors (60_exceptions.md): an error answer writes no element of R20, and which error is answered. -/

namespace Sys2Proof.Machine

open Sys2Proof

/-! ## An error writes nothing -/

/-- A command that goes on answers and changes nothing else, or it answers `OK`. -/
theorem exec_answers {i : Instr} {s t : State} (h : exec i s = .next t) :
    (∃ r : Response, (r.status ≠ .ok → r.out = []) ∧ t = s.withResponse (some r)) ∨
      ∃ out, t.response = some ⟨.ok, out⟩ := by
  obtain ⟨r, hr, e⟩ | ⟨_, _, _, _, _, _, _, e⟩ | ⟨_, _, _, _, _, e⟩ | ⟨_, _, _, _, _, e⟩ | ⟨_, e⟩ | ⟨_, _, _, e⟩ :=
    exec_cases i s <;> cases h.symm.trans e
  · exact .inl ⟨r, hr, rfl⟩
  · exact .inr ⟨_, rfl⟩
  · exact .inr ⟨_, rfl⟩
  · exact .inr ⟨_, rfl⟩
  · exact .inr ⟨_, rfl⟩

/-- Settles O45: the commands that write an element answer `OK`, and a byte that does not decode is answered with its
event taken and nothing else changed. -/
theorem errorsWriteNoState : Obligations.ErrorsWriteNoState := by
  refine ⟨fun i s t h => ?_, fun s cmd inp es e hp hd => step_undecodable hp hd⟩
  obtain ⟨⟨st, out⟩, hout, rfl⟩ | ⟨out, ht⟩ := exec_answers h
  · refine ⟨⟨st, out⟩, rfl, fun hne => ?_⟩
    obtain rfl : out = [] := hout hne
    exact ⟨rfl, rfl⟩
  · exact ⟨⟨.ok, out⟩, ht, fun hne => absurd rfl hne⟩

/-! ## Which error is answered -/

/-- R280 for `ENC`: the length of the payload, then the engine. -/
theorem expectedStatus_enc (inp : List Byte) (s : State) :
    expectedStatus (.enc inp) s =
      if inp.length ≠ 16 then .errPayloadLength else if s.ready then .ok else .errNotReady := rfl

/-- No command that decodes is illegal: none of the errors of R280 is `ERR_ILLEGAL_COMMAND`. -/
theorem expectedStatus_ne_errIllegalCommand (i : Instr) (s : State) : expectedStatus i s ≠ .errIllegalCommand := by
  unfold expectedStatus
  split
  · decide
  · split_ifs
    · split <;> decide
    · split <;> decide
    · split <;> decide

/-- The status a command reports is the expected one (60_exceptions.md rule R280). -/
theorem status_eq_expectedStatus {i : Instr} {s t : State} {r : Response} (h : exec i s = .next t)
    (hr : t.response = some r) : r.status = expectedStatus i s := by
  obtain ⟨q, hq, hst, _⟩ := exec_reports i h
  obtain rfl : r = q := Option.some.inj (hr.symm.trans hq)
  exact hst

/-- `ERR_ILLEGAL_COMMAND` is the answer to the bytes that do not decode, and to no others (R274). -/
theorem step_answers_illegal_iff {s t : State} {cmd : Byte} {inp : List Byte} {es : List HostEvent}
    (hp : s.pending = .command cmd inp :: es) (h : step s = .next t) :
    (∃ out, t.response = some ⟨.errIllegalCommand, out⟩) ↔ ∃ e, decode cmd inp = .error e := by
  cases hd : decode cmd inp with
  | error e =>
    cases h.symm.trans (step_undecodable hp hd)
    exact iff_of_true ⟨[], rfl⟩ ⟨e, rfl⟩
  | ok i =>
    rw [step_command hp hd] at h
    refine iff_of_false (fun ⟨out, ht⟩ => ?_) (fun ⟨_, he⟩ => nomatch he)
    exact expectedStatus_ne_errIllegalCommand i _ (status_eq_expectedStatus h ht).symm

/-- Settles O46: every command reports the expected status, which is never `ERR_ILLEGAL_COMMAND`; in the three examples
the earlier check decides. -/
theorem errorsAreReportedByPriority : Obligations.ErrorsAreReportedByPriority := by
  refine ⟨fun i s t r => status_eq_expectedStatus, fun s t cmd inp es => step_answers_illegal_iff,
    fun s p _ _ => ?_, fun s p _ hl => ?_, fun s p _ hl => ?_⟩
  · rw [expectedStatus_init, if_pos rfl]
  · rw [expectedStatus_init, if_neg (by decide), if_pos (by simp [hl])]
  · rw [expectedStatus_enc, if_pos (by simp [hl])]

end Sys2Proof.Machine

/-! Reset and the lifecycle of an engine, and the claims of 70_reset_and_hazards.md. -/

namespace Sys2Proof.Machine

open Sys2Proof

/-! ## Reset -/

/-- A reset between commands takes effect in one step (70_reset_and_hazards.md rule R300). -/
theorem step_reset {s : State} {es : List HostEvent} (hp : s.pending = .reset :: es) :
    step s = .next (takeReset (s.withPending es)) := by
  simp only [step, nextEvent_cons hp]

/-- A reset during a command takes effect in that command's step, whatever the command is (R300). -/
theorem step_resetDuring {s : State} {cmd : Byte} {inp : List Byte} {es : List HostEvent}
    (hp : s.pending = .resetDuring cmd inp :: es) : step s = .next (takeReset (s.withPending es)) := by
  simp only [step, nextEvent_cons hp]

theorem reset_key_getElem (i : Fin 32) : State.reset.key[i] = 0x00#8 := Vector.getElem_replicate i.isLt

theorem reset_w_getElem (c : Fin 60) : State.reset.w[c] = Word.zero := Vector.getElem_replicate c.isLt

/-- What `ZEROIZE` leaves is the engine of the reset state (43_block_cipher_engine.md rule R199). -/
theorem zeroized_sameEngine_reset (s : State) : s.zeroized.SameEngine State.reset := ⟨rfl, rfl, rfl, rfl, rfl, rfl⟩

/-- Settles O6: both resets leave `takeReset`, whose elements are read off the reset state, and `ZEROIZE` leaves the same
elements. -/
theorem resetClearsEveryElement : Obligations.ResetClearsEveryElement := by
  refine ⟨fun s es hp => ?_, fun s cmd inp es hp => ?_,
    ⟨rfl, rfl, rfl, reset_key_getElem, reset_w_getElem, rfl, rfl⟩, fun s t h => ?_⟩
  · rw [step_reset hp, takeReset_eq, State.withPending_pending]
  · rw [step_resetDuring hp, takeReset_eq, State.withPending_pending]
  · cases h.symm.trans (exec_zeroize_ok s)
    exact zeroized_sameEngine_reset s

/-- No command that reads or writes the engine is pure (30_encoding.md rule R88). -/
theorem not_isPure_of_block {i : Instr} (hb : isBlockOperation i = true) : i.isPure ≠ true := by
  cases i with
  | enc _ | dec _ => exact Bool.false_ne_true
  | _ => cases hb

/-- A well-formed pure command answers `OK` in every state and changes nothing else. -/
theorem exec_pure_ok {i : Instr} (s : State) (hp : i.isPure = true) (hw : i.wellFormed = true) :
    ∃ out, exec i s = .next (s.withResponse (some ⟨.ok, out⟩)) := by
  obtain ⟨⟨st, out⟩, _, e⟩ := answersOnly_of_isPure i s hp
  have hst : st = expectedStatus i s := status_eq_expectedStatus e rfl
  have hok : expectedStatus i s = .ok := expectedStatus_of_wellFormed hw (fun hb => absurd hp (not_isPure_of_block hb))
    (fun _ _ _ hi => by rw [hi] at hp; cases hp)
  exact ⟨out, by rw [e, hst, hok]⟩

/-- Settles O7: the reset state is an unconstructed engine, which is all that `STATUS`, `ENC` and `DEC` look at, and the
pure commands look at nothing. -/
theorem afterResetOnlyTheEngineIsMissing : Obligations.AfterResetOnlyTheEngineIsMissing :=
  ⟨exec_status_ok State.reset, fun _ hl => ⟨exec_enc_notReady hl rfl, exec_dec_notReady hl rfl⟩,
    fun _ hp hw => exec_pure_ok State.reset hp hw⟩

/-! ## The lifecycle -/

theorem State.SameEngine.trans {s t u : State} (h : s.SameEngine t) (h' : t.SameEngine u) : s.SameEngine u := by
  obtain ⟨hready, hks, hch, hkey, hw, hcv⟩ := h
  obtain ⟨hready', hks', hch', hkey', hw', hcv'⟩ := h'
  exact ⟨hready.trans hready', hks.trans hks', hch.trans hch', hkey.trans hkey', hw.trans hw', hcv.trans hcv'⟩

/-- Under the invariant every unconstructed engine is the one of the reset state (10_state.md rule R26). -/
theorem State.Inv.sameEngine_reset {s : State} (hs : s.Inv) (hr : s.ready = false) : s.SameEngine State.reset := by
  obtain ⟨hzero, _⟩ := hs
  exact ⟨hr, hzero hr⟩

section

variable {i : Instr} {s t : State} {r : Response}

/-- A command that answers an error leaves the engine as it was. -/
theorem sameEngine_of_status_ne_ok (h : exec i s = .next t) (hresp : t.response = some r) (hne : r.status ≠ .ok) :
    s.SameEngine t := by
  obtain ⟨q, hq, _, _, herr⟩ := exec_reports i h
  obtain rfl : r = q := Option.some.inj (hresp.symm.trans hq)
  obtain ⟨_, hsame⟩ := herr hne
  exact hsame

/-- An `INIT` that answers `OK` has constructed the engine (43_block_cipher_engine.md rule R196). -/
theorem eq_constructed_of_init_ok {ch : Chaining} {ks : BitVec 2} {key : List Byte}
    (h : exec (.init ch ks key) s = .next t) (hresp : t.response = some r) (hok : r.status = .ok) :
    t = (s.constructed ch ks key (keyExpansion key)).withResponse (some ⟨.ok, []⟩) := by
  obtain ⟨_, e⟩ | ⟨_, _, e⟩ | ⟨_, _, _, e⟩ | ⟨_, _, _, e⟩ := execInit_cases ch ks key s <;>
    cases h.symm.trans e <;> cases hresp
  · cases hok
  · cases hok
  · cases hok
  · rfl

/-- A `ZEROIZE` that answers `OK` has destroyed the engine (R199). -/
theorem sameEngine_reset_of_zeroize_ok {p : List Byte} (h : exec (.zeroize p) s = .next t)
    (hresp : t.response = some r) (hok : r.status = .ok) : t.SameEngine State.reset := by
  obtain ⟨_, e⟩ | ⟨_, e⟩ := checkLength_cases 0 p s (respond [] s.zeroized) <;> cases h.symm.trans e <;> cases hresp
  · exact zeroized_sameEngine_reset s
  · cases hok

/-- A command on an unconstructed engine leaves it as it was, unless it is a successful `INIT`: `ZEROIZE` clears what the
invariant says is clear. -/
theorem sameEngine_of_not_ready (hs : s.Inv) (hr : s.ready = false) (h : exec i s = .next t)
    (hinit : ∀ ch ks p, i = .init ch ks p → t.response ≠ some ⟨.ok, []⟩) : s.SameEngine t := by
  obtain hsame | ⟨_, hr', _⟩ | ⟨ch, ks, p, hi, _, _, _, _, hresp⟩ | ⟨_, ht, _⟩ := exec_engine_cases h
  · exact hsame
  · cases hr.symm.trans hr'
  · exact absurd hresp (hinit ch ks p hi)
  · exact (hs.sameEngine_reset hr).trans ht

/-- A command on a constructed engine that is not a `ZEROIZE` leaves everything but the chaining value, and leaves that
too in ECB. -/
theorem frame_of_ready (hr : s.ready = true) (hz : ∀ p, i ≠ .zeroize p) (h : exec i s = .next t) :
    t.ready = true ∧ t.ks = s.ks ∧ t.ch = s.ch ∧ t.key = s.key ∧ t.w = s.w ∧ (s.ch = .ecb → t.cv = s.cv) := by
  obtain ⟨hready, hks, hch, hkey, hw, hcv⟩ | ⟨_, _, hc, hready, hks, hch, hkey, hw, _⟩ | ⟨_, _, _, _, _, _, hr', _⟩ |
    ⟨hi, _⟩ := exec_engine_cases h
  · exact ⟨hready.symm.trans hr, hks.symm, hch.symm, hkey.symm, hw.symm, fun _ => hcv.symm⟩
  · exact ⟨hready.symm.trans hr, hks.symm, hch.symm, hkey.symm, hw.symm, fun he => by cases hc.symm.trans he⟩
  · cases hr.symm.trans hr'
  · exact absurd hi (hz [])

/-- A command on a constructed engine that is neither a block command nor a `ZEROIZE` leaves the whole engine. -/
theorem sameEngine_of_ready_of_not_block (hr : s.ready = true) (hb : isBlockOperation i = false)
    (hz : ∀ p, i ≠ .zeroize p) (h : exec i s = .next t) : s.SameEngine t := by
  obtain ⟨_, _, e⟩ | ⟨_, _, _, _, _, _, hr', _⟩ | ⟨_, rfl, _⟩ | ⟨_, rfl, _⟩ | ⟨hi, _⟩ | ⟨_, _, _, e⟩ := exec_cases i s
  · cases h.symm.trans e
    exact .refl s
  · cases hr.symm.trans hr'
  · cases hb
  · cases hb
  · exact absurd hi (hz [])
  · cases h.symm.trans e

end

/-- Settles O52: each row of the table is one of the lemmas above. -/
theorem lifecycleOfAnEngine : Obligations.LifecycleOfAnEngine := by
  intro i s t r hs h hresp
  refine ⟨fun _ ch ks p hi hok => ?_, fun hr hrow => sameEngine_of_not_ready hs hr h fun ch ks p hi hresp' => ?_,
    fun hr hb _ => frame_of_ready hr (fun p hi => ?_) h, fun _ p hi hok => ?_,
    fun hr hb hz => sameEngine_of_ready_of_not_block hr hb hz h, fun _ hne => sameEngine_of_status_ne_ok h hresp hne⟩
  · subst hi
    rw [eq_constructed_of_init_ok h hresp hok]
    exact ⟨rfl, rfl, rfl, rfl⟩
  · cases hresp.symm.trans hresp'
    obtain hno | hne := hrow
    · exact hno ch ks p hi
    · exact hne rfl
  · rw [hi] at hb
    cases hb
  · subst hi
    exact sameEngine_reset_of_zeroize_ok h hresp hok

/-! ## One chaining register -/

/-- Settles O40: `ENC` leaves its output in `CV`, and `DEC` of that output cancels it before the inverse cipher runs. -/
theorem oneChainServesBothDirections : Obligations.OneChainServesBothDirections := by
  intro p s hr h3 hc
  have hs : s.CbcReady := ⟨hr, h3, hc⟩
  have henc := exec_enc_cbc p hs
  generalize s.cv.xor (s.encipher p) = c at henc
  have hdec := exec_dec_cbc c (s := (s.withCv c).withResponse (some ⟨.ok, c.bytes⟩)) hs
  have hzero : c.xor ((s.withCv c).withResponse (some ⟨.ok, c.bytes⟩)).cv = Block.zero := Block.xor_self c
  rw [hzero] at hdec
  exact ⟨c, _, _, henc, rfl, rfl, hdec, rfl, rfl⟩

end Sys2Proof.Machine
